-- ==== Sys2Proof/Word.lean ====
section
/-! DEFINITION. The word type of the block: the 8-bit byte of the wire, of a request word and of a text
(spec/00_scope.md R9; every value is unsigned, bit 0 is the least significant bit). -/

namespace Sys2Proof

/-- One byte: a wire byte, a controller byte, a nibble carrier, a request word or a character (R9, R70). -/
abbrev Byte := BitVec 8

end Sys2Proof
end

