-- ==== Sys2Proof/Config.lean ====
section
/-! DEFINITION. The configuration record of spec/00_scope.md R6, the types of the draws the environment
makes (R11, R20), and the free values: constants without a body, so nothing can be proved about what they
are. -/

namespace Sys2Proof

/-- The configuration record `cfg` (R6): fixed at reset, no step writes it. The fields keep the table's order.
Of R8's constraints, `DEV_ADDR < 0x80`, `BACKLIGHT ∈ {0,1}`, `CMD_*` and `ROW_CMD[i]` below 0x100 and natural
timing values hold by the field types; the rest is `Machine.cfgValid`. -/
structure Cfg where
  /-- `NREQ`: number of request channels. -/
  nreq : Nat
  /-- `DEV_ADDR`: 7-bit I2C target address of every transmission. -/
  devAddr : BitVec 7
  /-- `BUS_CLK_HZ`: no rule reads it. -/
  busClkHz : Nat
  /-- `SDA_PIN`: no rule reads it. -/
  sdaPin : Nat
  /-- `SCL_PIN`: no rule reads it. -/
  sclPin : Nat
  /-- `BACKLIGHT`: bit BL of every wire byte. -/
  backlight : BitVec 1
  /-- `T_NIBBLE`: settle wait after each nibble transmission, in µs. -/
  tNibble : Nat
  /-- `T_POWERON`: wait after OPEN. -/
  tPoweron : Nat
  /-- `T_RESET1`: wait after the first reset nibble. -/
  tReset1 : Nat
  /-- `T_RESET2`: wait after the second and the third reset nibble. -/
  tReset2 : Nat
  /-- `T_4BIT`: wait after the 4-bit switch nibble. -/
  t4bit : Nat
  /-- `T_CLEAR`: wait after the clear command. -/
  tClear : Nat
  /-- `B_ROW`: guard budget of WRITE_ROW. -/
  bRow : Nat
  /-- `B_CMD`: guard budget of every nibble and byte transfer. -/
  bCmd : Nat
  /-- `T_XFER`: completion timeout of one transmission. -/
  tXfer : Nat
  /-- `SEND_BYTE_ATOMIC`: one guard hold for both nibbles of a byte. -/
  sendByteAtomic : Bool
  /-- `NIB_RESET`: the 8-bit reset nibble, in bits 7:4. -/
  nibReset : Byte
  /-- `NIB_4BIT`: the 4-bit switch nibble, in bits 7:4. -/
  nib4bit : Byte
  /-- `CMD_FUNCTION_SET`. -/
  cmdFunctionSet : Byte
  /-- `CMD_DISPLAY_ON`. -/
  cmdDisplayOn : Byte
  /-- `CMD_ENTRY_MODE`. -/
  cmdEntryMode : Byte
  /-- `CMD_CLEAR`. -/
  cmdClear : Byte
  /-- `ROW_CMD[0]`: address-set command byte of row 0. -/
  rowCmd0 : Byte
  /-- `ROW_CMD[1]`: address-set command byte of row 1. -/
  rowCmd1 : Byte
  /-- `PAD`: the padding character. -/
  pad : Byte
deriving DecidableEq, Repr

/-- The defaults of R6's table. DESIGN CHOICE (log 1, unsafe): the OPEN fields `NREQ`, `BUS_CLK_HZ`, `SDA_PIN`
and `SCL_PIN` have no default in the spec; the values here are only the ones `State.reset` carries, and every
statement is about every configuration. -/
def Cfg.default : Cfg where
  nreq := 2
  devAddr := 0x27#7
  busClkHz := 0
  sdaPin := 0
  sclPin := 0
  backlight := 1#1
  tNibble := 50
  tPoweron := 100000
  tReset1 := 5000
  tReset2 := 150
  t4bit := 150
  tClear := 2000
  bRow := 50000
  bCmd := 100000
  tXfer := 100000
  sendByteAtomic := true
  nibReset := 0x30#8
  nib4bit := 0x20#8
  cmdFunctionSet := 0x28#8
  cmdDisplayOn := 0x0C#8
  cmdEntryMode := 0x06#8
  cmdClear := 0x01#8
  rowCmd0 := 0x80#8
  rowCmd1 := 0xC0#8
  pad := 0x20#8

/-- What the bus reports for one transmission (R27, R110). -/
inductive TxOutcome
  | ok
  | buserror
  | timedout
deriving DecidableEq, Repr, Inhabited

/-- How a channel's step settles the one thing its head micro-operation leaves open: OPEN's draw `ok` (R104)
and, for an ACQ, grant against timeout (R105, R107). Every other micro-operation has one step and reads no
pick. -/
inductive Pick
  | take
  | giveUp
deriving DecidableEq, Repr, Inhabited

/-- One move of one agent, with the values it draws (R11, R20, R100). -/
inductive Move
  /-- A requester presents request word `word` and text `text` on channel `ch` (R211). -/
  | issue (ch : Nat) (word : Byte) (text : List Byte)
  /-- Channel `ch` executes the head of its micro-program (R103–R116). -/
  | run (ch : Nat) (pick : Pick)
  /-- The bus agent completes the transmission in flight; `delivered` is the draw `k` of a failure (R110). -/
  | complete (outcome : TxOutcome) (delivered : Nat)
  /-- The time agent advances the time by `delta` µs (R101). -/
  | tick (delta : Nat)
deriving DecidableEq, Repr, Inhabited

namespace Config

/-- FREE VALUE (log 2, safe): the move taken when State's agenda is empty, by the number of moves drawn so far.
R100 fixes no schedule and R11 makes every draw free, so nothing constrains it. -/
opaque freeMove : Nat → Move

/-- FREE VALUE (log 3, safe): what RESULT[c] of the status view reads while channel `c` has no result (R34
calls it unspecified), by the channel and the time of the reading. -/
opaque freeResultCode : Nat → Nat → BitVec 2

end Config

end Sys2Proof
end

