-- ==== Sys2Proof/Syntax.lean ====
section
/-! DEFINITION. The instructions: one constructor per row of spec/opcode_table.json, which lists the five
request codes of R75 and the nine transfers of R79; the three encoding spaces those rows stand in; and the
reasons a request is refused for (R213). -/

namespace Sys2Proof

/-- The mode flag RS: command 0, character data 1 (R13, R70). -/
inductive Mode
  | command
  | data
deriving DecidableEq, Repr

/-- The three encodings of the opcode table. They overlap as numbers (0x03 is WRITE_ROW 0 as a request and
HD_RESET8 as a nibble command), so a word is decoded in the space it is presented in. -/
inductive Space
  /-- An 8-bit request word followed by its text or operand bytes (R74). -/
  | request
  /-- A 5-bit nibble command `rs:n[7:4]` (R78). -/
  | nibble
  /-- A 9-bit controller byte `rs:v[7:0]` (R78). -/
  | byte
deriving DecidableEq, Repr

/-- The rows of the opcode table. -/
inductive Instr
  /-- INIT (R170). -/
  | init
  /-- CLEAR (R200). -/
  | clear
  /-- WRITE_ROW with the row field of the request word and the text operand (R150). -/
  | writeRow (row : BitVec 2) (text : List Byte)
  /-- SEND_NIBBLE, the macro `SN(n, rs)` (R132). -/
  | sendNibble (n : Byte) (rs : Mode)
  /-- SEND_BYTE, the macro `SB(v, rs)` (R133). -/
  | sendByte (v : Byte) (rs : Mode)
  /-- HD_RESET8 (R182). -/
  | hdReset8
  /-- HD_SET4 (R183). -/
  | hdSet4
  /-- HD_FUNCTION_SET (R184). -/
  | hdFunctionSet
  /-- HD_DISPLAY_ON (R185). -/
  | hdDisplayOn
  /-- HD_ENTRY_MODE (R186). -/
  | hdEntryMode
  /-- HD_CLEAR (R187). -/
  | hdClear
  /-- HD_SET_DDRAM_ROW0 (R188). -/
  | hdSetDdramRow0
  /-- HD_SET_DDRAM_ROW1 (R189). -/
  | hdSetDdramRow1
  /-- HD_WRITE_DATA of character `d` for cell `cell` (R190). -/
  | hdWriteData (d : Byte) (cell : BitVec 4)
deriving DecidableEq, Repr

/-- The precondition faults, a closed set (R213). -/
inductive FaultReason
  | isrContext
  | badRequest
  | badRow
  | initTwice
  | notReady
deriving DecidableEq, Repr

/-- The space an instruction is encoded in. -/
def Instr.space : Instr → Space
  | .init => .request
  | .clear => .request
  | .writeRow _ _ => .request
  | .sendNibble _ _ => .request
  | .sendByte _ _ => .request
  | .hdReset8 => .nibble
  | .hdSet4 => .nibble
  | .hdFunctionSet => .byte
  | .hdDisplayOn => .byte
  | .hdEntryMode => .byte
  | .hdClear => .byte
  | .hdSetDdramRow0 => .byte
  | .hdSetDdramRow1 => .byte
  | .hdWriteData _ _ => .byte

end Sys2Proof
end

