-- ==== Sys2Proof/WellFormed.lean ====
section
/-! DEFINITION. Which instruction terms the encodings admit. Every operand but WRITE_ROW's row fills its type:
`ROW` is a two-bit field of which the values 2 and 3 are refused (R75, R77). -/

namespace Sys2Proof

/-- A row index of the display (R7: `ROWS = 2`). -/
def rowInRange (row : BitVec 2) : Bool := row.toNat < 2

/-- The instruction is one the encodings admit. -/
def Instr.wf : Instr → Bool
  | .init => true
  | .clear => true
  | .writeRow row _ => rowInRange row
  | .sendNibble _ _ => true
  | .sendByte _ _ => true
  | .hdReset8 => true
  | .hdSet4 => true
  | .hdFunctionSet => true
  | .hdDisplayOn => true
  | .hdEntryMode => true
  | .hdClear => true
  | .hdSetDdramRow0 => true
  | .hdSetDdramRow1 => true
  | .hdWriteData _ _ => true

end Sys2Proof
end

