-- ==== Sys2Proof/Decode.lean ====
section
/-! DEFINITION. The decoder of the three encoding spaces (spec/30_encoding.md R74–R79), total on any bytes and
rejecting by name; the encoder written from the same tables; and the decoding of what stands on the wire (R80,
R82, R83). -/

namespace Sys2Proof

/-- Why bytes are no instruction. -/
inductive Reject
  /-- The request port refuses the word with this reason (R77): the fault of R214 is raised. -/
  | port (r : FaultReason)
  /-- A nibble or byte code that is no row of the opcode table: the block emits no such transfer (R79). -/
  | noSuchCommand
  /-- No word is there at all. -/
  | truncated
deriving DecidableEq, Repr

/-- What the decoder answers. -/
inductive Decoded
  | instr (i : Instr)
  | reject (r : Reject)
deriving DecidableEq, Repr

/-- The mode a mode bit stands for (R13, R70). -/
def modeOfBit (b : Bool) : Mode := if b then .data else .command

/-- Bit 7 of a request word (R74). -/
def ctxBit (w : Byte) : Bool := w.getLsbD 7

/-- Bits 6:5 of a request word, which must be zero (R74). -/
def reservedField (w : Byte) : BitVec 2 := w.extractLsb' 5 2

/-- Bits 4:3 of a request word (R74). -/
def rowField (w : Byte) : BitVec 2 := w.extractLsb' 3 2

/-- Bits 2:0 of a request word (R74, R75). -/
def opField (w : Byte) : BitVec 3 := w.extractLsb' 0 3

/-- An instruction whose word must carry `ROW = 0b00` (R74). -/
def withRowZero (w : Byte) (i : Instr) : Decoded :=
  if rowField w = 0#2 then .instr i else .reject (.port .badRequest)

/-- The request decoder (R77), its checks in that rule's order. The two internal codes decode to their rows of
the table; the port refuses them where they are executed (R75). DESIGN CHOICE (log 4): the operands of the
internal rows, which the table gives no bits, stand in the bytes after the word. -/
def decodeRequest (w : Byte) (t : List Byte) : Decoded :=
  if ctxBit w then .reject (.port .isrContext)
  else if reservedField w ≠ 0#2 then .reject (.port .badRequest)
  else if opField w = 1#3 then withRowZero w .init
  else if opField w = 2#3 then withRowZero w .clear
  else if opField w = 3#3 then
    if rowInRange (rowField w) then .instr (.writeRow (rowField w) t) else .reject (.port .badRow)
  else if opField w = 4#3 then
    withRowZero w (.sendNibble (t.getD 0 0#8) (modeOfBit ((t.getD 1 0#8).getLsbD 0)))
  else if opField w = 5#3 then
    withRowZero w (.sendByte (t.getD 0 0#8) (modeOfBit ((t.getD 1 0#8).getLsbD 0)))
  else .reject (.port .badRequest)

/-- The nibble commands by their 5-bit code `rs:n[7:4]` (R78, R79). -/
def decodeNibble (code : Byte) : Decoded :=
  if code = 0x03#8 then .instr .hdReset8
  else if code = 0x02#8 then .instr .hdSet4
  else .reject .noSuchCommand

/-- The controller bytes by their 9-bit code `rs:v[7:0]`, `v` the low byte and `rs` bit 0 of the high byte (R78,
R79). `cell` is the operand byte of HD_WRITE_DATA (log 4). -/
def decodeByte (v rs cell : Byte) : Decoded :=
  if rs = 1#8 then
    if cell.toNat < 16 then .instr (.hdWriteData v (cell.setWidth 4)) else .reject .noSuchCommand
  else if rs ≠ 0#8 then .reject .noSuchCommand
  else if v = 0x28#8 then .instr .hdFunctionSet
  else if v = 0x0C#8 then .instr .hdDisplayOn
  else if v = 0x06#8 then .instr .hdEntryMode
  else if v = 0x01#8 then .instr .hdClear
  else if v = 0x80#8 then .instr .hdSetDdramRow0
  else if v = 0xC0#8 then .instr .hdSetDdramRow1
  else .reject .noSuchCommand

/-- The decoder: total on any bytes of any space. -/
def decode (sp : Space) (bytes : List Byte) : Decoded :=
  match sp, bytes with
  | .request, w :: t => decodeRequest w t
  | .nibble, [code] => decodeNibble code
  | .byte, [v, rs] => decodeByte v rs 0#8
  | .byte, [v, rs, cell] => decodeByte v rs cell
  | .request, [] => .reject .truncated
  | .nibble, [] => .reject .truncated
  | .byte, [] => .reject .truncated
  | .byte, [_] => .reject .truncated
  | .nibble, _ :: _ :: _ => .reject .noSuchCommand
  | .byte, _ :: _ :: _ :: _ :: _ => .reject .noSuchCommand

/-- The operand byte that carries a mode flag (log 4). -/
def modeByte : Mode → Byte
  | .command => 0x00#8
  | .data => 0x01#8

/-- The encoder: an instruction's bytes in its space, from the tables of R75 and R79. -/
def encode : Instr → List Byte
  | .init => [0x01#8]
  | .clear => [0x02#8]
  | .writeRow row text => (0x03#8 ||| (row.setWidth 8 <<< 3)) :: text
  | .sendNibble n rs => [0x04#8, n, modeByte rs]
  | .sendByte v rs => [0x05#8, v, modeByte rs]
  | .hdReset8 => [0x03#8]
  | .hdSet4 => [0x02#8]
  | .hdFunctionSet => [0x28#8, 0x00#8]
  | .hdDisplayOn => [0x0C#8, 0x00#8]
  | .hdEntryMode => [0x06#8, 0x00#8]
  | .hdClear => [0x01#8, 0x00#8]
  | .hdSetDdramRow0 => [0x80#8, 0x00#8]
  | .hdSetDdramRow1 => [0xC0#8, 0x00#8]
  | .hdWriteData d cell => [d, 0x01#8, cell.setWidth 8]

/-- The space of a table word by its number of bits: the table's 5-bit codes are nibble commands, its 8-bit words
requests, its 9-bit codes controller bytes. -/
def tableSpace (nbits : Nat) : Space :=
  if nbits ≤ 5 then .nibble else if nbits ≤ 8 then .request else .byte

/-- A table word's bytes in its space, the first the lowest (every operand byte above the table's bits is zero). -/
def tableBytes (nbits w : Nat) : List Byte :=
  match tableSpace nbits with
  | .nibble => [BitVec.ofNat 8 w]
  | .request => [BitVec.ofNat 8 w]
  | .byte => [BitVec.ofNat 8 w, BitVec.ofNat 8 (w / 256)]

/-- The instruction the decoder reads from a word of the opcode table. -/
def decodeTableWord (nbits w : Nat) : Option Instr :=
  match decode (tableSpace nbits) (tableBytes nbits w) with
  | .instr i => some i
  | .reject _ => none

/-- `dec` of R83: the mode bit and the value of the four wire bytes of one controller byte. -/
def decodeWireByte (b0 b2 : Byte) : Mode × Byte :=
  (modeOfBit (b0.getLsbD 0), (b0 &&& 0xF0#8) ||| (b2 >>> 4))

/-- Two wire bytes are a NibblePacket (R70, R72, R80): backlight bit as configured, RW clear, EN high then low,
nothing else different. -/
def isPacket (bl : BitVec 1) (b0 b1 : Byte) : Bool :=
  b0.getLsbD 3 == bl.getLsbD 0 && !b0.getLsbD 1 && b0.getLsbD 2 && b1 == (b0 &&& 0xFB#8)

/-- Every pair of the list is a NibblePacket, and nothing is left over. -/
def allPackets (bl : BitVec 1) : List Byte → Bool
  | [] => true
  | [_] => false
  | b0 :: b1 :: rest => isPacket bl b0 b1 && allPackets bl rest

/-- The controller bytes of a list of wire bytes, four at a time (R83). -/
def decodeWireBytes : List Byte → List (Mode × Byte)
  | b0 :: _ :: b2 :: _ :: rest => decodeWireByte b0 b2 :: decodeWireBytes rest
  | _ => []

/-- What one transmission on the wire is (R82). -/
inductive Transmission
  /-- A NibblePacket: mode and nibble in bits 7:4. -/
  | packet (rs : Mode) (n : Byte)
  /-- A RowTransaction: its 17 controller bytes, the address command first. -/
  | row (bytes : List (Mode × Byte))
deriving DecidableEq, Repr

/-- The wire decoder: none for a transmission the block never produces (R80). -/
def decodeTransmission (bl : BitVec 1) (bytes : List Byte) : Option Transmission :=
  if allPackets bl bytes then
    if bytes.length = 2 then
      some (.packet (modeOfBit ((bytes.getD 0 0#8).getLsbD 0)) (bytes.getD 0 0#8 &&& 0xF0#8))
    else if bytes.length = 68 then some (.row (decodeWireBytes bytes))
    else none
  else none

end Sys2Proof
end

