-- ==== Sys2Proof/Machine/State.lean ====
section
/-! DEFINITION. The state of the controller (spec/10_state.md R22–R35) as plain data, and its reset value (R240).
Where the spec's field name is a word of Lean's own, the name here says so: `deadline` is the spec's `until`. -/

namespace Sys2Proof.Machine

/-- The results of an operation (R14, R76). -/
inductive Result
  | ok
  | timedout
  | buserror
  | fatal
deriving DecidableEq, Repr

/-- The operations the port accepts, with the operand the channel keeps (R23). -/
inductive Op
  | init
  | clear
  | writeRow (row : BitVec 2)
deriving DecidableEq, Repr

/-- The micro-operations (R12, R103–R116). -/
inductive MicroOp
  /-- OPEN (R104). -/
  | openBus
  /-- ACQ(b) (R105, R107). -/
  | acq (budget : Nat)
  /-- TX(bytes) (R109). -/
  | tx (bytes : List Byte)
  /-- TX(ch[c].rowbuf) (R150, R109): the bytes are those of the channel's row buffer. -/
  | txRow
  /-- WAIT(d) (R112). -/
  | wait (d : Nat)
  /-- REL (R108). -/
  | rel
  /-- DONE(r) (R115). -/
  | done (r : Result)
deriving DecidableEq, Repr

/-- The lifecycle of the block (R24). -/
inductive Life
  | uninit
  | initializing
  | ready
  | fatal
deriving DecidableEq, Repr

/-- The bus session (R25). -/
inductive Session
  | closed
  | opened
deriving DecidableEq, Repr

/-- The transmission in flight (R28). -/
inductive Bus
  | idle
  | busy (ch : Nat) (bytes : List Byte) (t0 : Nat)
deriving DecidableEq, Repr

/-- One element of the wire trace (R27). -/
structure WireEvent where
  ch : Nat
  t0 : Nat
  t1 : Nat
  sent : List Byte
  delivered : List Byte
  outcome : TxOutcome
deriving DecidableEq, Repr

/-- A request with its operands (R74, R84): `INIT`, `CLEAR` or `WRITE_ROW row, text`. -/
structure Request where
  op : Op
  /-- The text operand of a WRITE_ROW; empty for INIT and CLEAR, whose text is ignored (R74, R211). -/
  text : List Byte
deriving DecidableEq, Repr

/-- One channel record `ch[c]` (R23), followed by one field of the model's own. -/
structure Channel where
  op : Option Op
  prog : List MicroOp
  deadline : Nat
  txpend : Bool
  rowbuf : List Byte
  result : Option Result
  /-- The model's own: the text of the request accepted last, kept for the observation of R38 (log 9). -/
  text : List Byte
deriving DecidableEq, Repr

/-- The request a busy channel is working on; none on an idle channel. -/
def Channel.request (k : Channel) : Option Request := k.op.map (fun op => { op := op, text := k.text })

/-- One result returned to the requester of channel `ch`, with the request it answers (R38). Only a busy channel
returns one, so `request` is none in no run (R37 I7). -/
structure Answer where
  ch : Nat
  request : Option Request
  result : Result
deriving DecidableEq, Repr

/-- Where an instruction is presented from: the request port (R74), or the block's own assembly of a
micro-program (R12, R132, R133). -/
inductive Via
  | port
  | internal
deriving DecidableEq, Repr

/-- An instruction placed on a channel from outside the run (log 5). -/
structure Presented where
  via : Via
  space : Space
  ch : Nat
  bytes : List Byte
deriving DecidableEq, Repr

/-- Why the machine stops. -/
inductive Fault
  /-- Raised by every step and meaning while the sticky fault is set: no agent has a step (R100, R214). Safe: the
  spec gives such a state no step. -/
  | halted (r : FaultReason)
  /-- Raised by every step and meaning while `life = FATAL`: the state is final, the aborted outcome (R100, R222).
  Safe: the spec gives such a state no step. -/
  | aborted
deriving DecidableEq, Repr

/-- Why the machine does not run. -/
inductive Refusal
  /-- Raised by an arm of exec without a meaning. Safe. -/
  | notModelled (mnemonic : String)
  /-- Raised by the step and by power-on: the configuration fails R8 and is refused, not run. Safe. -/
  | badConfig
  /-- Raised by the step for placed bytes that are no row of the opcode table (R79). Safe: no agent of the block
  presents such bytes. -/
  | noSuchCommand
deriving DecidableEq, Repr

/-- The global state (R22), followed by the model's own fields, which are none of the spec's. -/
structure State where
  /-- The configuration, never written (R6, R34). -/
  cfg : Cfg
  /-- Global time in µs (R29). -/
  now : Nat
  /-- Lifecycle (R24). -/
  life : Life
  /-- Bus session (R25). -/
  session : Session
  /-- Holder of the exclusion guard (R26). -/
  guard : Option Nat
  /-- The transmission in flight (R28). -/
  bus : Bus
  /-- The wire trace, oldest first (R27). -/
  wire : List WireEvent
  /-- The sticky precondition fault (R30). -/
  fault : Option FaultReason
  /-- The channel records, channel `c` at index `c` (R23). -/
  chs : List Channel
  /-- The model's own: the results returned so far, oldest first (the observation of R38). -/
  answers : List Answer
  /-- The model's own: the moves the agents take next (R20, R100; log 2). -/
  agenda : List Move
  /-- The model's own: how many moves were drawn from `Config.freeMove` (log 2). -/
  draws : Nat
  /-- The model's own: an instruction placed from outside the run (log 5). -/
  slot : Option Presented
  /-- The model's own: the channel the current instruction is presented on. -/
  sel : Nat
  /-- The model's own: where the current instruction is presented from. -/
  via : Via
deriving DecidableEq, Repr

/-- The channel record at reset (R23). DESIGN CHOICE (log 6, unsafe): `rowbuf`, unspecified there, is 68 zero
bytes; it is written whole before it is read. DESIGN CHOICE (log 9, safe): `text`, the model's own, is empty. -/
def Channel.reset : Channel where
  op := none
  prog := []
  deadline := 0
  txpend := false
  rowbuf := List.replicate 68 0x00#8
  result := none
  text := []

/-- The state right after reset with configuration `cfg` (R22, R240). -/
def State.resetOf (cfg : Cfg) : State where
  cfg := cfg
  now := 0
  life := .uninit
  session := .closed
  guard := none
  bus := .idle
  wire := []
  fault := none
  chs := List.replicate cfg.nreq Channel.reset
  answers := []
  agenda := []
  draws := 0
  slot := none
  sel := 0
  via := .port

/-- The state right after reset, with the defaults of R6 (log 1). -/
def State.reset : State := State.resetOf Cfg.default

end Sys2Proof.Machine
end

