-- ==== Sys2Proof/Machine/Operands.lean ====
section
/-! DEFINITION. Operand assembly: the wire byte and its expansions (spec/30_encoding.md R70–R72, R81), and the
cells and the buffer of a row (spec/42_row_transmitter.md R151, R152). -/

namespace Sys2Proof.Machine

/-- The mode flag as bit RS (R13, R70). -/
def rsBit : Mode → Byte
  | .command => 0#8
  | .data => 1#8

/-- The enable flag as a bit value (R70). -/
def enBit (en : Bool) : Byte := if en then 1#8 else 0#8

/-- `pkt(n, rs, en)` (R71). RW is the zero shifted to bit 1. -/
def pkt (cfg : Cfg) (n : Byte) (rs : Mode) (en : Bool) : Byte :=
  (n &&& 0xF0#8) ||| (cfg.backlight.setWidth 8 <<< 3) ||| (enBit en <<< 2) ||| (0#8 <<< 1) ||| rsBit rs

/-- `nib(n, rs)`: one NibblePacket (R72). -/
def nib (cfg : Cfg) (n : Byte) (rs : Mode) : List Byte := [pkt cfg n rs true, pkt cfg n rs false]

/-- `hi(v)`: the high nibble, in place (R72). -/
def hi (v : Byte) : Byte := v &&& 0xF0#8

/-- `lo(v)`: the low nibble, moved to bits 7:4 (R72). -/
def lo (v : Byte) : Byte := (v <<< 4) &&& 0xF0#8

/-- `byte4(v, rs)`: the four wire bytes of a controller byte (R72). -/
def byte4 (cfg : Cfg) (v : Byte) (rs : Mode) : List Byte := nib cfg (hi v) rs ++ nib cfg (lo v) rs

/-- `t'`: the text cut before its first zero byte (R81, R151). -/
def cutText (t : List Byte) : List Byte := t.takeWhile (fun b => b != 0#8)

/-- `cell(t, i)` (R151). -/
def cell (cfg : Cfg) (t : List Byte) (i : Nat) : Byte := (cutText t).getD i cfg.pad

/-- `cfg.ROW_CMD[row]`, emitted verbatim (R52). -/
def rowCmd (cfg : Cfg) (row : BitVec 2) : Byte := if row = 0#2 then cfg.rowCmd0 else cfg.rowCmd1

/-- The RowTransaction of `build(row, t)`: the address-set command, then the 16 cells (R152). -/
def rowBytes (cfg : Cfg) (row : BitVec 2) (t : List Byte) : List Byte :=
  byte4 cfg (rowCmd cfg row) .command ++ (List.range 16).flatMap (fun i => byte4 cfg (cell cfg t i) .data)

/-- Overwrite the buffer from position `pos` with the bytes `bs` (the assignment `rowbuf[pos .. pos+len)` of R152). -/
def writeAt (buf : List Byte) (pos : Nat) (bs : List Byte) : List Byte :=
  buf.take pos ++ bs ++ buf.drop (pos + bs.length)

end Sys2Proof.Machine
end

