-- ==== Sys2Proof/Machine/Macros.lean ====
section
/-! DEFINITION. The macros micro-programs are built from (spec/41_nibble_encoder.md R131–R135,
spec/44_clear_display.md R201), the transfers of the emitted commands (spec/43_init_sequencer.md R182–R187), and
the micro-programs and failure tails of the three operations (R150, R170, R200, R116). -/

namespace Sys2Proof.Machine

/-- `NB(n, rs)`: one nibble and its settle wait, the guard already held (R131). -/
def nb (cfg : Cfg) (n : Byte) (rs : Mode) : List MicroOp := [.tx (nib cfg n rs), .wait cfg.tNibble]

/-- `SN(n, rs)`: one nibble as a complete bus transaction (R132). -/
def sn (cfg : Cfg) (n : Byte) (rs : Mode) : List MicroOp := [.acq cfg.bCmd] ++ nb cfg n rs ++ [.rel]

/-- `SB_A(v, rs)`: both nibbles in one guard hold (R134). -/
def sbA (cfg : Cfg) (v : Byte) (rs : Mode) : List MicroOp :=
  [.acq cfg.bCmd] ++ nb cfg (hi v) rs ++ nb cfg (lo v) rs ++ [.rel]

/-- `SB_N(v, rs)`: one guard hold per nibble (R135). -/
def sbN (cfg : Cfg) (v : Byte) (rs : Mode) : List MicroOp := sn cfg (hi v) rs ++ sn cfg (lo v) rs

/-- `SB(v, rs)` (R133). -/
def sb (cfg : Cfg) (v : Byte) (rs : Mode) : List MicroOp :=
  if cfg.sendByteAtomic then sbA cfg v rs else sbN cfg v rs

/-- `CLEAR_CORE` (R201): the clear command with its settle time, inside the guard hold in the atomic form and after
it in the other (R202). -/
def clearCore (cfg : Cfg) : List MicroOp :=
  if cfg.sendByteAtomic then
    [.acq cfg.bCmd] ++ nb cfg (hi cfg.cmdClear) .command ++ nb cfg (lo cfg.cmdClear) .command ++
      [.wait cfg.tClear, .rel]
  else sbN cfg cfg.cmdClear .command ++ [.wait cfg.tClear]

/-- The transfer of HD_RESET8 (R182). -/
def xferReset8 (cfg : Cfg) : List MicroOp := sn cfg cfg.nibReset .command

/-- The transfer of HD_SET4 (R183). -/
def xferSet4 (cfg : Cfg) : List MicroOp := sn cfg cfg.nib4bit .command

/-- The transfer of HD_FUNCTION_SET (R184). -/
def xferFunctionSet (cfg : Cfg) : List MicroOp := sb cfg cfg.cmdFunctionSet .command

/-- The transfer of HD_DISPLAY_ON (R185). -/
def xferDisplayOn (cfg : Cfg) : List MicroOp := sb cfg cfg.cmdDisplayOn .command

/-- The transfer of HD_ENTRY_MODE (R186). -/
def xferEntryMode (cfg : Cfg) : List MicroOp := sb cfg cfg.cmdEntryMode .command

/-- The transfer of HD_CLEAR, emitted by `CLEAR_CORE` with the clear wait where that macro puts it (R187, R201). -/
def xferClear (cfg : Cfg) : List MicroOp := clearCore cfg

/-- `prog(INIT)`, its five steps in order (R170–R175). -/
def initProg (cfg : Cfg) : List MicroOp :=
  [.openBus, .wait cfg.tPoweron]
    ++ xferReset8 cfg ++ [.wait cfg.tReset1]
    ++ xferReset8 cfg ++ [.wait cfg.tReset2]
    ++ xferReset8 cfg ++ [.wait cfg.tReset2]
    ++ xferSet4 cfg ++ [.wait cfg.t4bit]
    ++ xferFunctionSet cfg
    ++ xferDisplayOn cfg
    ++ xferEntryMode cfg
    ++ xferClear cfg
    ++ [.done .ok]

/-- `prog(CLEAR)` (R200). -/
def clearProg (cfg : Cfg) : List MicroOp := clearCore cfg ++ [.done .ok]

/-- `prog(WRITE_ROW(row))` (R150). -/
def writeRowProg (cfg : Cfg) : List MicroOp := [.acq cfg.bRow, .txRow, .rel, .done .ok]

/-- `prog(d)`: the micro-program of an accepted operation (R211). -/
def opProg (cfg : Cfg) : Op → List MicroOp
  | .init => initProg cfg
  | .clear => clearProg cfg
  | .writeRow _ => writeRowProg cfg

/-- `failTail(op, e)` (R116). A channel without an operation never fails (R37 I1, I2); its tail is empty. -/
def failTail (cfg : Cfg) (op : Option Op) (e : Result) : List MicroOp :=
  match op with
  | some .init => [.done .fatal]
  | some .clear => [.wait cfg.tClear, .done e]
  | some (.writeRow _) => [.done e]
  | none => []

end Sys2Proof.Machine
end

