-- ==== Sys2Proof/Machine/Ops.lean ====
section
/-! DEFINITION. The operations every step is built from: the updates of one field or one channel record, arming
and pop (spec/10_state.md R32, spec/40_bus_session_guard.md R103), the two ways an error is entered (the sticky
fault of R214 and `fail` of R116; there is no return from either, R220), acceptance at the port (R211), and the
assembly of a micro-program on an idle channel (R12). -/

namespace Sys2Proof.Machine

/-- What R8 demands of a configuration beyond the types of its fields. -/
def cfgValid (cfg : Cfg) : Bool :=
  1 ≤ cfg.nreq && cfg.nibReset &&& 0x0F#8 == 0#8 && cfg.nib4bit &&& 0x0F#8 == 0#8

/-- Power-on with a configuration (R8, R240, R241): one that fails R8 is refused, not run. -/
def powerOn (cfg : Cfg) : Host.Outcome State Fault Refusal :=
  if cfgValid cfg then .next (State.resetOf cfg) else .refused .badConfig

namespace State

/-- Replace channel `c`'s record; a channel that does not exist has none to replace. -/
def setCh (s : State) (c : Nat) (k : Channel) : State := { s with chs := s.chs.set c k }

/-- Write `life`. -/
def withLife (s : State) (l : Life) : State := { s with life := l }

/-- Write `session`. -/
def withSession (s : State) (x : Session) : State := { s with session := x }

/-- Write `guard`. -/
def withGuard (s : State) (g : Option Nat) : State := { s with guard := g }

/-- Write `bus`. -/
def withBus (s : State) (b : Bus) : State := { s with bus := b }

/-- `wire.append(e)` (R10). -/
def logWire (s : State) (e : WireEvent) : State := { s with wire := s.wire ++ [e] }

/-- Record a returned result for the observation of R38. -/
def logAnswer (s : State) (a : Answer) : State := { s with answers := s.answers ++ [a] }

/-- Advance the time (R101). -/
def advance (s : State) (delta : Nat) : State := { s with now := s.now + delta }

/-- `raise Fault(r)` (R214): the first reason raised stays. -/
def raiseFault (s : State) (r : FaultReason) : State :=
  { s with fault := match s.fault with
      | none => some r
      | some r0 => some r0 }

/-- Present the current instruction on channel `c`, from the port or from inside the block. -/
def presentOn (s : State) (c : Nat) (via : Via) : State := { s with sel := c, via := via }

/-- Take the placed instruction out of its slot. -/
def emptySlot (s : State) : State := { s with slot := none }

/-- Leave these moves on the agenda. -/
def withAgenda (s : State) (rest : List Move) : State := { s with agenda := rest }

/-- Count one free move drawn. -/
def countDraw (s : State) : State := { s with draws := s.draws + 1 }

/-- Why no agent has a step in this state (R100): none when agents may step. -/
def halted? (s : State) : Option Fault :=
  match s.fault with
  | some r => some (.halted r)
  | none => if s.life = .fatal then some .aborted else none

end State

/-- The deadline a new head micro-operation arms (R32). -/
def armedDeadline (now : Nat) (prog : List MicroOp) (old : Nat) : Nat :=
  match prog with
  | .wait d :: _ => now + d
  | .acq b :: _ => now + b
  | _ => old

/-- Give the channel this micro-program and arm its head: `arm(c)` after a write of `prog` (R32). -/
def Channel.armedWith (k : Channel) (now : Nat) (prog : List MicroOp) : Channel :=
  { k with prog := prog, deadline := armedDeadline now prog k.deadline, txpend := false }

namespace State

/-- `pop(c)` (R103). -/
def pop (s : State) (c : Nat) : State :=
  match s.chs[c]? with
  | some k => s.setCh c (k.armedWith s.now k.prog.tail)
  | none => s

/-- The guard after channel `c` gives up what it holds of it (R116). -/
def guardWithout (s : State) (c : Nat) : Option Nat := if s.guard = some c then none else s.guard

/-- `fail(c, e)`: the one error entry inside an operation (R116, R219). It saves no state. -/
def fail (s : State) (c : Nat) (e : Result) : State :=
  match s.chs[c]? with
  | some k => (s.withGuard (s.guardWithout c)).setCh c (k.armedWith s.now (failTail s.cfg k.op e))
  | none => s.withGuard (s.guardWithout c)

end State

/-- Do `body` with the record of the channel the instruction is presented on, when that channel is idle. In a state
in which no agent has a step it stops as that state does (R100). On a busy channel, or one that does not exist, a
requester has no move (R210) and a micro-program is not written (R66): nothing happens (log 7). -/
def onIdle (s : State) (body : Channel → State) : Host.Outcome State Fault Refusal :=
  match s.halted? with
  | some f => .fault f
  | none =>
    match s.chs[s.sel]? with
    | none => .next s
    | some k => if k.op.isSome then .next s else .next (body k)

/-- The accepting branch of `Issue` (R211): the operation and its micro-program enter the channel's record, armed, and
the text of the request with them (log 9). -/
def accept (s : State) (k : Channel) (r : Request) : State :=
  s.setCh s.sel ({ k with op := some r.op, text := r.text }.armedWith s.now (opProg s.cfg r.op))

/-- The port refuses a request (R212): the fault is raised, and nothing of the request is performed. -/
def refuseRequest (r : FaultReason) (s : State) : Host.Outcome State Fault Refusal :=
  onIdle s (fun _ => s.raiseFault r)

/-- Add a transfer to the end of the micro-program being assembled on an idle channel (R12; log 5). -/
def assemble (xfer : Cfg → List MicroOp) (s : State) : Host.Outcome State Fault Refusal :=
  onIdle s (fun k => s.setCh s.sel { k with prog := k.prog ++ xfer s.cfg })

/-- Write a controller byte into an idle channel's row buffer at `pos`, as R152 builds it (log 5). -/
def writeRowbuf (pos : Nat) (v : Cfg → Byte) (rs : Mode) (s : State) : Host.Outcome State Fault Refusal :=
  onIdle s (fun k => s.setCh s.sel { k with rowbuf := writeAt k.rowbuf pos (byte4 s.cfg (v s.cfg) rs) })

end Sys2Proof.Machine
end

