-- ==== Sys2Proof/Machine/Agents.lean ====
section
/-! DEFINITION. The steps of the channels, of the bus agent and of the time agent
(spec/40_bus_session_guard.md R100–R116). Each answers none where its rule's "enabled when" does not hold. -/

namespace Sys2Proof.Machine

/-- `TX(bytes)`: issue one transmission (R109). -/
def issueTx (c : Nat) (k : Channel) (bytes : List Byte) (s : State) : Option State :=
  if k.txpend = false ∧ s.guard = some c ∧ s.bus = .idle ∧ s.session = .opened then
    some ((s.withBus (.busy c bytes s.now)).setCh c { k with txpend := true })
  else none

/-- `life` after `DONE(r)` of operation `op` (R115): only INIT writes it. -/
def lifeAfter (op : Option Op) (r : Result) (old : Life) : Life :=
  if op = some .init then (if r = .ok then .ready else .fatal) else old

/-- `DONE(r)` (R115). -/
def finish (c : Nat) (k : Channel) (r : Result) (s : State) : State :=
  ((s.withLife (lifeAfter k.op r s.life)).setCh c { k with result := some r, op := none, prog := [] }).logAnswer
    { ch := c, request := k.request, result := r }

/-- One step of a busy channel, decided by the head of its micro-program (R100, R104–R116). -/
def channelStep (c : Nat) (pick : Pick) (s : State) : Option State :=
  match s.chs[c]? with
  | none => none
  | some k =>
    if k.op.isNone then none
    else
      match k.prog with
      | [] => none
      | .openBus :: _ =>
        match pick with
        | .take => some ((s.withSession .opened).pop c)
        | .giveUp => some (s.fail c .fatal)
      | .acq _ :: _ =>
        match pick with
        | .take => if s.guard = none then some ((s.withGuard (some c)).pop c) else none
        | .giveUp => if s.guard ≠ some c ∧ k.deadline ≤ s.now then some (s.fail c .timedout) else none
      | .tx bytes :: _ => issueTx c k bytes s
      | .txRow :: _ => issueTx c k k.rowbuf s
      | .wait _ :: _ => if k.deadline ≤ s.now then some (s.pop c) else none
      | .rel :: _ => some ((s.withGuard none).pop c)
      | .done r :: _ => some (finish c k r s)

/-- How many bytes of the transmission reach the port expander: all on OK, the drawn prefix on a failure (R110). -/
def deliveredCount (outcome : TxOutcome) (bytes : List Byte) (drawn : Nat) : Nat :=
  match outcome with
  | .ok => bytes.length
  | .buserror => drawn
  | .timedout => drawn

/-- May the bus agent report this outcome with this drawn count now (R110)? -/
def outcomeAllowed (s : State) (outcome : TxOutcome) (bytes : List Byte) (t0 drawn : Nat) : Bool :=
  match outcome with
  | .ok => true
  | .buserror => drawn ≤ bytes.length
  | .timedout => drawn ≤ bytes.length && t0 + s.cfg.tXfer ≤ s.now

/-- What the channel does with the outcome of its transmission (R110). -/
def afterTx (s : State) (c : Nat) (outcome : TxOutcome) : State :=
  match outcome with
  | .ok => s.pop c
  | .buserror => s.fail c .buserror
  | .timedout => s.fail c .timedout

/-- The bus agent completes the transmission in flight (R110). -/
def busStep (outcome : TxOutcome) (drawn : Nat) (s : State) : Option State :=
  match s.bus with
  | .idle => none
  | .busy c bytes t0 =>
    if outcomeAllowed s outcome bytes t0 drawn then
      some (afterTx
        ((s.logWire
            { ch := c, t0 := t0, t1 := s.now, sent := bytes,
              delivered := bytes.take (deliveredCount outcome bytes drawn), outcome := outcome }).withBus .idle)
        c outcome)
    else none

/-- The time agent's step (R101): while some channel is busy, by any positive amount. -/
def timeStep (delta : Nat) (s : State) : Option State :=
  if 1 ≤ delta ∧ s.chs.any (fun k => k.op.isSome) then some (s.advance delta) else none

end Sys2Proof.Machine
end

