-- ==== Sys2Proof/Machine/Commands.lean ====
section
/-! DEFINITION. The meanings of the controller transfers the block emits (spec/43_init_sequencer.md R182–R190): each
adds its transfer to the micro-program being assembled, or its four wire bytes to the row buffer. -/

namespace Sys2Proof.Machine

/-- HD_RESET8 (R182). -/
def execHdReset8 (s : State) : Host.Outcome State Fault Refusal := assemble xferReset8 s

/-- HD_SET4 (R183). -/
def execHdSet4 (s : State) : Host.Outcome State Fault Refusal := assemble xferSet4 s

/-- HD_FUNCTION_SET (R184). -/
def execHdFunctionSet (s : State) : Host.Outcome State Fault Refusal := assemble xferFunctionSet s

/-- HD_DISPLAY_ON (R185). -/
def execHdDisplayOn (s : State) : Host.Outcome State Fault Refusal := assemble xferDisplayOn s

/-- HD_ENTRY_MODE (R186). -/
def execHdEntryMode (s : State) : Host.Outcome State Fault Refusal := assemble xferEntryMode s

/-- HD_CLEAR (R187). -/
def execHdClear (s : State) : Host.Outcome State Fault Refusal := assemble xferClear s

/-- HD_SET_DDRAM_ROW0 (R188): bytes 0–3 of a row 0 RowTransaction. -/
def execHdSetDdramRow0 (s : State) : Host.Outcome State Fault Refusal :=
  writeRowbuf 0 (fun cfg => cfg.rowCmd0) .command s

/-- HD_SET_DDRAM_ROW1 (R189): bytes 0–3 of a row 1 RowTransaction. -/
def execHdSetDdramRow1 (s : State) : Host.Outcome State Fault Refusal :=
  writeRowbuf 0 (fun cfg => cfg.rowCmd1) .command s

/-- HD_WRITE_DATA (R190): bytes `4+4i .. 7+4i` for cell `i`. -/
def execHdWriteData (d : Byte) (cell : BitVec 4) (s : State) : Host.Outcome State Fault Refusal :=
  writeRowbuf (4 + 4 * cell.toNat) (fun _ => d) .data s

end Sys2Proof.Machine
end

