-- ==== Sys2Proof/Machine/Requests.lean ====
section
/-! DEFINITION. The meanings of the request codes (spec/60_exceptions.md R211; spec/43_init_sequencer.md R170,
spec/44_clear_display.md R200, spec/42_row_transmitter.md R150) and of the two internal operations SEND_NIBBLE and
SEND_BYTE (spec/41_nibble_encoder.md R132, R133). -/

namespace Sys2Proof.Machine

/-- INIT (R170, R211): accepted once, while the block is not initialised. -/
def execInit (s : State) : Host.Outcome State Fault Refusal :=
  onIdle s (fun k =>
    if s.life = .uninit then (accept s k { op := .init, text := [] }).withLife .initializing else s.raiseFault .initTwice)

/-- CLEAR (R200, R211): accepted in `life = READY`. -/
def execClear (s : State) : Host.Outcome State Fault Refusal :=
  onIdle s (fun k => if s.life = .ready then accept s k { op := .clear, text := [] } else s.raiseFault .notReady)

/-- WRITE_ROW (R150–R152, R211): the row buffer is built in the step that accepts it. A row outside {0,1} is refused
before the lifecycle is looked at (R77, R211). -/
def execWriteRow (row : BitVec 2) (text : List Byte) (s : State) : Host.Outcome State Fault Refusal :=
  onIdle s (fun k =>
    if rowInRange row then
      if s.life = .ready then accept s { k with rowbuf := rowBytes s.cfg row text } { op := .writeRow row, text := text }
      else s.raiseFault .notReady
    else s.raiseFault .badRow)

/-- SEND_NIBBLE: refused at the port (R75, R212); inside the block, the macro `SN(n, rs)` (R132). -/
def execSendNibble (n : Byte) (rs : Mode) (s : State) : Host.Outcome State Fault Refusal :=
  match s.via with
  | .port => refuseRequest .badRequest s
  | .internal => assemble (fun cfg => sn cfg n rs) s

/-- SEND_BYTE: refused at the port (R75, R212); inside the block, the macro `SB(v, rs)` (R133). -/
def execSendByte (v : Byte) (rs : Mode) (s : State) : Host.Outcome State Fault Refusal :=
  match s.via with
  | .port => refuseRequest .badRequest s
  | .internal => assemble (fun cfg => sb cfg v rs) s

end Sys2Proof.Machine
end

