-- ==== Sys2Proof/Machine/Dispatch.lean ====
section
/-! DEFINITION. exec: one arm per row of the opcode table, each one call of that row's meaning. -/

namespace Sys2Proof.Machine

def exec (i : Instr) (s : State) : Host.Outcome State Fault Refusal :=
  match i with
  | .init => Sys2Proof.Machine.execInit s
  | .clear => Sys2Proof.Machine.execClear s
  | .writeRow row text => Sys2Proof.Machine.execWriteRow row text s
  | .sendNibble n rs => Sys2Proof.Machine.execSendNibble n rs s
  | .sendByte v rs => Sys2Proof.Machine.execSendByte v rs s
  | .hdReset8 => Sys2Proof.Machine.execHdReset8 s
  | .hdSet4 => Sys2Proof.Machine.execHdSet4 s
  | .hdFunctionSet => Sys2Proof.Machine.execHdFunctionSet s
  | .hdDisplayOn => Sys2Proof.Machine.execHdDisplayOn s
  | .hdEntryMode => Sys2Proof.Machine.execHdEntryMode s
  | .hdClear => Sys2Proof.Machine.execHdClear s
  | .hdSetDdramRow0 => Sys2Proof.Machine.execHdSetDdramRow0 s
  | .hdSetDdramRow1 => Sys2Proof.Machine.execHdSetDdramRow1 s
  | .hdWriteData d cell => Sys2Proof.Machine.execHdWriteData d cell s

end Sys2Proof.Machine
end

