-- ==== Sys2Proof/Machine/Front.lean ====
section
/-! DEFINITION. What a step does with the move it takes: an instruction presented on a channel is decoded and
executed (spec/60_exceptions.md R211), a move of another agent is made where its rule enables it (R100). Also which
move is next, and where an instruction placed from outside stands (log 5). -/

namespace Sys2Proof.Machine

/-- Where a word of the opcode table is presented from: a request word at the port, a transfer inside the block. -/
def spaceVia : Space → Via
  | .request => .port
  | .nibble => .internal
  | .byte => .internal

/-- Present `bytes` of space `sp` on channel `c`: decode them and execute the instruction, or refuse them (R211,
R212). -/
def present (via : Via) (sp : Space) (c : Nat) (bytes : List Byte) (s : State) :
    Host.Outcome State Fault Refusal :=
  match decode sp bytes with
  | .instr i => exec i (s.presentOn c via)
  | .reject (.port r) => refuseRequest r (s.presentOn c via)
  | .reject .noSuchCommand => .refused .noSuchCommand
  | .reject .truncated => .refused .noSuchCommand

/-- A move that is not enabled is passed over: nothing happens (log 7). -/
def orPass (s : State) (r : Option State) : Host.Outcome State Fault Refusal := .next (r.getD s)

/-- Make one move of one agent (R100). -/
def perform (m : Move) (s : State) : Host.Outcome State Fault Refusal :=
  match m with
  | .issue c w t => present .port .request c (w :: t) s
  | .run c pick => orPass s (channelStep c pick s)
  | .complete outcome k => orPass s (busStep outcome k s)
  | .tick delta => orPass s (timeStep delta s)

/-- The next move: the agenda's first, or a free one when the agenda is empty (R100, R11; log 2). -/
def nextMove (s : State) : Move × State :=
  match s.agenda with
  | m :: rest => (m, s.withAgenda rest)
  | [] => (Config.freeMove s.draws, s.countDraw)

/-- One step of a state in which agents may step: the placed instruction first, else the next move. -/
def proceed (s : State) : Host.Outcome State Fault Refusal :=
  match s.slot with
  | some p => present p.via p.space p.ch p.bytes s.emptySlot
  | none => perform (nextMove s).1 (nextMove s).2

/-- The first idle channel. -/
def idleChannel (s : State) : Nat := s.chs.findIdx (fun k => k.op.isNone)

/-- A table word as an instruction placed on the first idle channel (log 5). -/
def placedWord (s : State) (nbits w : Nat) : Presented where
  via := spaceVia (tableSpace nbits)
  space := tableSpace nbits
  ch := idleChannel s
  bytes := tableBytes nbits w

end Sys2Proof.Machine
end

