-- ==== Sys2Proof/Machine/Step.lean ====
section
/-! DEFINITION. One step of the machine (spec/40_bus_session_guard.md R100), and the placing of a table word where
the next step takes its instruction from. -/

namespace Sys2Proof.Machine

/-- One step: a configuration that fails R8 is not run, a state without a step stops under that state's name, and
otherwise one agent moves. -/
def step (s : State) : Host.Outcome State Fault Refusal :=
  if cfgValid s.cfg then
    match s.halted? with
    | some f => .fault f
    | none => proceed s
  else .refused .badConfig

/-- `s` with a table word placed so that the very next step runs it (log 5). -/
def State.withFetchWord (s : State) (nbits w : Nat) : State := { s with slot := some (placedWord s nbits w) }

end Sys2Proof.Machine
end

