-- ==== Sys2Proof/Machine/Flags.lean ====
section
/-! DEFINITION. The status of the block: it has no condition codes and no arithmetic flags (spec/10_state.md R33);
what it has is the result codes of R76 and the read-only status view of R34. -/

namespace Sys2Proof.Machine

/-- The result codes (R76, R215). -/
def resultCode : Result → BitVec 2
  | .ok => 0#2
  | .timedout => 1#2
  | .buserror => 2#2
  | .fatal => 3#2

/-- Field `LIFE` of the status view (R34). -/
def lifeCode : Life → Byte
  | .uninit => 0#8
  | .initializing => 1#8
  | .ready => 2#8
  | .fatal => 3#8

/-- A flag as a bit value. -/
def flagBit (b : Bool) : Byte := if b then 1#8 else 0#8

/-- The status view (R34): LIFE in bits 1:0, then SESSION_OPEN, GUARD_HELD, BUS_BUSY and FAULT, bits 7:6 zero. -/
def statusByte (s : State) : Byte :=
  lifeCode s.life ||| (flagBit (s.session == .opened) <<< 2) ||| (flagBit s.guard.isSome <<< 3) |||
    (flagBit (s.bus != .idle) <<< 4) ||| (flagBit s.fault.isSome <<< 5)

/-- BUSY[c] of the status view (R34); a channel that does not exist is not busy. -/
def busyFlag (s : State) (c : Nat) : Bool :=
  match s.chs[c]? with
  | some k => k.op.isSome
  | none => false

/-- RESULT[c] of the status view (R34): the code of the last result, unspecified while there is none. -/
def resultView (s : State) (c : Nat) : BitVec 2 :=
  match s.chs[c]? with
  | some k =>
    match k.result with
    | some r => resultCode r
    | none => Config.freeResultCode c s.now
  | none => Config.freeResultCode c s.now

end Sys2Proof.Machine
end

