-- ==== Sys2Proof/Safety.lean ====
section
/-! DEFINITION. What counts as a safe state, a final state and an observation (spec/10_state.md R38, R39), when a move
is enabled and which runs are fair (spec/40_bus_session_guard.md R100, R102), and the invariants claims use
(spec/10_state.md R37, spec/20_memory.md R57–R63, spec/44_clear_display.md R203). -/

namespace Sys2Proof.Machine

/-- No precondition is broken and the block has not aborted. -/
def State.safe (s : State) : Prop := s.fault = none ∧ s.life ≠ .fatal

/-- Every channel idle, the bus idle, the guard free (R39 a). -/
def State.quiet (s : State) : Prop := (∀ k ∈ s.chs, k.op = none) ∧ s.bus = .idle ∧ s.guard = none

/-- A final state (R39): quiet, or aborted; one with a fault never is. The requesters' part of (a), that they issue
nothing more, is not a property of a state. -/
def State.final (s : State) : Prop := s.fault = none ∧ (s.quiet ∨ s.life = .fatal)

/-- The results returned to channel `c`, oldest first, each with the request it answers (R38). -/
def State.resultsOf (s : State) (c : Nat) : List Answer := s.answers.filter (fun a => a.ch == c)

/-- The observation of a run, read off the state it ends in (R38). -/
structure Observation where
  wire : List WireEvent
  /-- The results returned to each channel, channel `c` at index `c`: no order between channels is in it. -/
  results : List (List Answer)
  life : Life
  faulted : Bool
deriving DecidableEq, Repr

/-- The observation (R38). -/
def State.observe (s : State) : Observation where
  wire := s.wire
  results := (List.range s.cfg.nreq).map s.resultsOf
  life := s.life
  faulted := s.fault.isSome

/-- The I2C target every transmission goes to (R51, R225). -/
def State.target (s : State) : BitVec 7 := s.cfg.devAddr

/-- The rule of this move enables it (R100, R211). -/
def enabled (m : Move) (s : State) : Bool :=
  s.halted?.isNone &&
    match m with
    | .issue c _ _ =>
      match s.chs[c]? with
      | some k => k.op.isNone
      | none => false
    | .run c pick => (channelStep c pick s).isSome
    | .complete outcome k => (busStep outcome k s).isSome
    | .tick delta => (timeStep delta s).isSome

/-- An infinite run of the block: each step is an enabled move (R100). -/
structure IsRun (states : Nat → State) (moves : Nat → Move) : Prop where
  allowed : ∀ n, enabled (moves n) (states n) = true
  next : ∀ n, perform (moves n) (states n) = .next (states (n + 1))

/-- Weak fairness for every channel step, the bus completion step and the time step, and time growing without bound
(R102). -/
structure WeaklyFair (states : Nat → State) (moves : Nat → Move) : Prop where
  channel : ∀ c pick n, (∀ m, n ≤ m → enabled (.run c pick) (states m) = true) → ∃ m, n ≤ m ∧ moves m = .run c pick
  bus : ∀ n, (∀ m, n ≤ m → (states m).bus ≠ .idle) → ∃ m outcome k, n ≤ m ∧ moves m = .complete outcome k
  time : ∀ n, (∀ m, n ≤ m → enabled (.tick 1) (states m) = true) → ∃ m delta, n ≤ m ∧ moves m = .tick delta
  unbounded : ∀ bound, ∃ n, bound ≤ (states n).now

/-- The bytes a channel's head transmission sends: none when its head is no TX. -/
def headBytes (k : Channel) : Option (List Byte) :=
  match k.prog with
  | .tx bytes :: _ => some bytes
  | .txRow :: _ => some k.rowbuf
  | _ => none

/-- The invariants of R37, numbered as there. -/
structure SpecInvariants (s : State) : Prop where
  i1 : ∀ c, s.guard = some c → ∃ k : Channel, s.chs[c]? = some k ∧ k.op ≠ none
  i2 : ∀ c bytes t0, s.bus = .busy c bytes t0 →
    s.guard = some c ∧ ∃ k : Channel, s.chs[c]? = some k ∧ k.txpend = true ∧ headBytes k = some bytes
  i3 : ∀ (c : Nat) (k : Channel), s.chs[c]? = some k → k.txpend = true → ∃ bytes t0, s.bus = .busy c bytes t0
  i4_one : ∀ (c c' : Nat) (k k' : Channel), s.chs[c]? = some k → s.chs[c']? = some k' →
    k.op = some .init → k'.op = some .init → c = c'
  i4_life : (∃ (c : Nat) (k : Channel), s.chs[c]? = some k ∧ k.op = some .init) ↔ s.life = .initializing
  i5 : s.life = .uninit ∨ s.life = .initializing →
    ∀ (c : Nat) (k : Channel), s.chs[c]? = some k → k.op ≠ some .init → k.op = none
  i6 : ∀ e ∈ s.wire, e.outcome = .ok → e.delivered = e.sent
  i7 : ∀ (c : Nat) (k : Channel), s.chs[c]? = some k → k.op ≠ none → k.prog ≠ []

/-- The results an operation can return (R76). -/
def opReturns : Op → Result → Bool
  | .init, r => r == .ok || r == .fatal
  | .clear, r => r == .ok || r == .timedout || r == .buserror
  | .writeRow _, r => r == .ok || r == .timedout || r == .buserror

/-- The operation is a WRITE_ROW. -/
def Op.isRow : Op → Bool
  | .init => false
  | .clear => false
  | .writeRow _ => true

/-- A micro-program is in order from where it stands, the guard held or not and the session open or not: it opens the
session at most once and before anything else, transmits only NibblePackets or its row and only inside a guard hold,
settles after every nibble inside the hold, and gives the guard up before it ends in one DONE (R57, R109, R118,
R131). -/
def progOk (cfg : Cfg) (op : Op) : Bool → Bool → List MicroOp → Bool
  | _, _, [] => false
  | held, opened, .openBus :: p => op == .init && !held && !opened && progOk cfg op held true p
  | held, opened, .acq _ :: p => !held && opened && progOk cfg op true opened p
  | held, opened, .tx bytes :: p =>
    held && opened && bytes.length == 2 && allPackets cfg.backlight bytes &&
      p.head? == some (.wait cfg.tNibble) && progOk cfg op held opened p
  | held, opened, .txRow :: p => op.isRow && held && opened && progOk cfg op held opened p
  | held, opened, .wait _ :: p => progOk cfg op held opened p
  | held, opened, .rel :: p => held && progOk cfg op false opened p
  | held, opened, .done r :: p => !held && p.isEmpty && opReturns op r && (r != .ok || opened)

/-- The structural invariant: what every reachable state satisfies about the channel records and what they share. It
implies R37. -/
structure Inv (s : State) : Prop where
  channels : s.chs.length = s.cfg.nreq
  buffers : ∀ k ∈ s.chs, k.rowbuf.length = 68
  rows : ∀ (c : Nat) (k : Channel) (row : BitVec 2), s.chs[c]? = some k → k.op = some (.writeRow row) →
    k.rowbuf = rowBytes s.cfg row k.text
  holder : ∀ c, s.guard = some c → ∃ k : Channel, s.chs[c]? = some k ∧ k.op ≠ none
  progs : ∀ (c : Nat) (k : Channel) (op : Op), s.chs[c]? = some k → k.op = some op →
    progOk s.cfg op (decide (s.guard = some c)) (decide (s.session = .opened)) k.prog = true
  flight : ∀ c bytes t0, s.bus = .busy c bytes t0 →
    s.guard = some c ∧ ∃ k : Channel, s.chs[c]? = some k ∧ k.txpend = true ∧ headBytes k = some bytes
  pending : ∀ (c : Nat) (k : Channel), s.chs[c]? = some k → k.txpend = true → ∃ bytes t0, s.bus = .busy c bytes t0
  one_init : ∀ (c c' : Nat) (k k' : Channel), s.chs[c]? = some k → s.chs[c']? = some k' →
    k.op = some .init → k'.op = some .init → c = c'
  init_life : (∃ (c : Nat) (k : Channel), s.chs[c]? = some k ∧ k.op = some .init) ↔ s.life = .initializing
  alone : s.life ≠ .ready → ∀ (c : Nat) (k : Channel), s.chs[c]? = some k → k.op ≠ some .init → k.op = none
  fresh : s.life = .uninit → s.session = .closed
  ready_open : s.life = .ready → s.session = .opened
  delivered : ∀ e ∈ s.wire, e.outcome = .ok → e.delivered = e.sent

/-- Each busy channel's micro-program is what is left of the program its operation was given at acceptance, or of its
failure tail (R31, R66). -/
def ProgramsFixed (s : State) : Prop :=
  ∀ (c : Nat) (k : Channel) (op : Op), s.chs[c]? = some k → k.op = some op →
    k.prog <:+ opProg s.cfg op ∨ ∃ e, k.prog <:+ failTail s.cfg (some op) e

/-- The wire trace is in time order, and ends no later than now (R63). -/
structure TraceOrdered (s : State) : Prop where
  each : ∀ e ∈ s.wire, e.t0 ≤ e.t1 ∧ e.t1 ≤ s.now
  order : ∀ (i : Nat) (e1 e2 : WireEvent), s.wire[i]? = some e1 → s.wire[i + 1]? = some e2 → e1.t1 ≤ e2.t0
  flight : ∀ c bytes t0, s.bus = .busy c bytes t0 → t0 ≤ s.now ∧ ∀ e ∈ s.wire, e.t1 ≤ t0

/-- Every transmission of the trace is one the block can produce, and what was delivered is a prefix of it (R27, R57,
R80). -/
def WireShaped (s : State) : Prop :=
  ∀ e ∈ s.wire, (decodeTransmission s.cfg.backlight e.sent).isSome = true ∧ e.delivered <+: e.sent ∧
    e.ch < s.cfg.nreq

/-- A nibble transmission that completed with OK, after which the settle time runs (R63). -/
def WireEvent.settles (e : WireEvent) : Prop := e.sent.length = 2 ∧ e.outcome = .ok

/-- The settle time of every nibble is over before the next transmission starts (R63, R250): on the trace, for the
transmission in flight, and for the next one, which the guard's holder keeps from starting while it waits. -/
structure Settled (s : State) : Prop where
  spaced : ∀ (i : Nat) (e1 e2 : WireEvent), s.wire[i]? = some e1 → s.wire[i + 1]? = some e2 → e1.settles →
    e1.t1 + s.cfg.tNibble ≤ e2.t0
  flight : ∀ c bytes t0 e, s.bus = .busy c bytes t0 → s.wire.getLast? = some e → e.settles →
    e.t1 + s.cfg.tNibble ≤ t0
  waiting : ∀ e, s.bus = .idle → s.wire.getLast? = some e → e.settles →
    e.t1 + s.cfg.tNibble ≤ s.now ∨
      (s.guard = some e.ch ∧ ∃ (k : Channel) (rest : List MicroOp), s.chs[e.ch]? = some k ∧ k.op ≠ none ∧
        k.prog = .wait s.cfg.tNibble :: rest ∧ e.t1 + s.cfg.tNibble ≤ k.deadline)

/-- What is left of a CLEAR when its last wait is over: the release, if the wait ran inside the guard hold, and
DONE. -/
def clearEnding (p : List MicroOp) : Prop := ∃ r, p = [.done r] ∨ p = [.rel, .done r]

/-- A CLEAR that is past its last wait has waited `T_CLEAR` since the last transmission it completed, and one in that
wait is armed so (R203). -/
structure ClearTimed (s : State) : Prop where
  waited : ∀ (c : Nat) (k : Channel), s.chs[c]? = some k → k.op = some .clear → clearEnding k.prog →
    ∀ e ∈ s.wire, e.ch = c → e.t1 + s.cfg.tClear ≤ s.now
  armed : ∀ (c : Nat) (k : Channel) (rest : List MicroOp), s.chs[c]? = some k → k.op = some .clear → k.prog = .wait s.cfg.tClear :: rest →
    clearEnding rest → ∀ e ∈ s.wire, e.ch = c → e.t1 + s.cfg.tClear ≤ k.deadline

/-- The transmissions a micro-program still makes, but for a row's. -/
def transmissions (p : List MicroOp) : List (List Byte) :=
  p.filterMap (fun u =>
    match u with
    | .tx bytes => some bytes
    | _ => none)

/-- What a successful INIT transmits, in order (R180). -/
def initPackets (cfg : Cfg) : List (List Byte) :=
  [nib cfg cfg.nibReset .command, nib cfg cfg.nibReset .command, nib cfg cfg.nibReset .command,
   nib cfg cfg.nib4bit .command,
   nib cfg (hi cfg.cmdFunctionSet) .command, nib cfg (lo cfg.cmdFunctionSet) .command,
   nib cfg (hi cfg.cmdDisplayOn) .command, nib cfg (lo cfg.cmdDisplayOn) .command,
   nib cfg (hi cfg.cmdEntryMode) .command, nib cfg (lo cfg.cmdEntryMode) .command,
   nib cfg (hi cfg.cmdClear) .command, nib cfg (lo cfg.cmdClear) .command]

/-- The trace of INIT: empty before it; while it runs and has not failed, what it transmitted and what it still has to
transmit are together its 12 packets, all its own and all completed with OK; after it they are the first 12 events (R179,
R180, R243). -/
structure InitTraced (s : State) : Prop where
  before : s.life = .uninit → s.wire = []
  during : ∀ (c : Nat) (k : Channel), s.chs[c]? = some k → k.op = some .init → k.prog = [.done .fatal] ∨
    (s.wire.map (fun e => e.sent) ++ transmissions k.prog = initPackets s.cfg ∧
      ∀ e ∈ s.wire, e.ch = c ∧ e.outcome = .ok)
  finished : s.life = .ready →
    (s.wire.take 12).map (fun e => e.sent) = initPackets s.cfg ∧ ∀ e ∈ s.wire.take 12, e.outcome = .ok

/-- Channel `c` exists with record `k`, is idle, and agents may step: an instruction presented on it is executed
(R100, R211). -/
def State.idleAt (s : State) (c : Nat) (k : Channel) : Prop :=
  s.fault = none ∧ s.life ≠ .fatal ∧ s.chs[c]? = some k ∧ k.op = none

/-- Channel `c` exists with record `k` and is busy (R23). -/
def State.busyAt (s : State) (c : Nat) (k : Channel) : Prop := s.chs[c]? = some k ∧ k.op ≠ none

/-- The next step takes move `m` off the agenda, and `u` is the state it is made in (R100). -/
def State.takes (s : State) (m : Move) (u : State) : Prop :=
  cfgValid s.cfg = true ∧ s.fault = none ∧ s.life ≠ .fatal ∧ s.slot = none ∧ s.agenda = m :: u.agenda ∧
    u = s.withAgenda u.agenda

/-- Execute instructions one after the other, stopping at the first that gives no next state. -/
def execAll : List Instr → State → Host.Outcome State Fault Refusal
  | [], s => .next s
  | i :: rest, s =>
    match exec i s with
    | .next t => execAll rest t
    | .fault f => .fault f
    | .refused r => .refused r

/-- The states the block can be in: after power-on with a configuration that R8 admits, by steps, the environment
putting on the agenda whatever moves it likes (R20, R100). -/
inductive Reachable : State → Prop
  | reset (cfg : Cfg) (h : cfgValid cfg = true) : Reachable (State.resetOf cfg)
  | schedule (s : State) (moves : List Move) (h : Reachable s) : Reachable (s.withAgenda moves)
  | step (s t : State) (h : Reachable s) (hs : Sys2Proof.Machine.step s = .next t) : Reachable t

/-- The two states agree in everything the spec gives the machine: they differ at most in the model's own fields
`agenda`, `draws`, `slot`, `sel` and `via`. -/
def SameMachine (s t : State) : Prop :=
  t.cfg = s.cfg ∧ t.now = s.now ∧ t.life = s.life ∧ t.session = s.session ∧ t.guard = s.guard ∧ t.bus = s.bus ∧
    t.wire = s.wire ∧ t.fault = s.fault ∧ t.chs = s.chs ∧ t.answers = s.answers

end Sys2Proof.Machine
end

