-- ==== Sys2Proof/Certificates/Slice0/Obligations.lean ====
section
/-! DEFINITION. The statements for the provers, from the numbered rules of spec/. -/

open Sys2Proof Sys2Proof.Machine

/-! ### Encodings -/

/-- R71, R130: the bits of a wire byte, for every configuration, nibble carrier, mode and enable; the nibbles the block
passes have nothing in their low bits. -/
def Obligations.PacketByteLayout : Prop :=
  ∀ (cfg : Cfg) (n : Byte) (rs : Mode) (en : Bool),
    (pkt cfg n rs en).extractLsb' 4 4 = n.extractLsb' 4 4 ∧
    (pkt cfg n rs en).getLsbD 3 = cfg.backlight.getLsbD 0 ∧
    (pkt cfg n rs en).getLsbD 2 = en ∧
    (pkt cfg n rs en).getLsbD 1 = false ∧
    (pkt cfg n rs en).getLsbD 0 = decide (rs = .data) ∧
    (∀ v : Byte, hi v &&& 0x0F#8 = 0#8 ∧ lo v &&& 0x0F#8 = 0#8) ∧
    (cfgValid cfg = true → cfg.nibReset &&& 0x0F#8 = 0#8 ∧ cfg.nib4bit &&& 0x0F#8 = 0#8)

/-- R72: NibblePacket, nibbles and controller byte. -/
def Obligations.NibblePacketsAndControllerBytes : Prop :=
  ∀ (cfg : Cfg) (n v : Byte) (rs : Mode),
    nib cfg n rs = [pkt cfg n rs true, pkt cfg n rs false] ∧
    pkt cfg n rs true ^^^ pkt cfg n rs false = 0x04#8 ∧
    hi v = v &&& 0xF0#8 ∧ lo v = (v <<< 4) &&& 0xF0#8 ∧
    byte4 cfg v rs = nib cfg (hi v) rs ++ nib cfg (lo v) rs ∧
    (cfg.backlight = 1#1 →
      nib cfg n rs = [(n &&& 0xF0#8) ||| 0x0C#8 ||| rsBit rs, (n &&& 0xF0#8) ||| 0x08#8 ||| rsBit rs])

/-- R83: decoding the wire gives back what was encoded, byte by byte and for a whole row. -/
def Obligations.WireDecodingInvertsEncoding : Prop :=
  (∀ (b0 b1 b2 b3 : Byte) (rest : List Byte),
    decodeWireBytes (b0 :: b1 :: b2 :: b3 :: rest) =
      (if b0.getLsbD 0 then .data else .command, (b0 &&& 0xF0#8) ||| (b2 >>> 4)) :: decodeWireBytes rest) ∧
  (∀ (cfg : Cfg) (v : Byte) (rs : Mode),
    decodeWireBytes (nib cfg (hi v) rs ++ nib cfg (lo v) rs) = [(rs, v)]) ∧
  ∀ (cfg : Cfg) (row : BitVec 2) (t : List Byte),
    decodeWireBytes (rowBytes cfg row t) =
      (.command, rowCmd cfg row) :: (List.range 16).map (fun i => (.data, cell cfg t i))

/-- R77: every request word presented on an idle channel is INIT, CLEAR, WRITE_ROW of row 0 or 1, or refused with the
first reason of the rule's order, and exactly four words are accepted. -/
def Obligations.RequestDecodingTotal : Prop :=
  ∀ (s : State) (c : Nat) (k : Channel) (w : Byte) (t : List Byte), s.idleAt c k →
    (w.getLsbD 7 = true →
      ∃ s', present .port .request c (w :: t) s = .next s' ∧ SameMachine { s with fault := some .isrContext } s') ∧
    (w.getLsbD 7 = false → w.extractLsb' 5 2 ≠ 0#2 →
      ∃ s', present .port .request c (w :: t) s = .next s' ∧ SameMachine { s with fault := some .badRequest } s') ∧
    (w.getLsbD 7 = false → w.extractLsb' 5 2 = 0#2 →
      w.extractLsb' 0 3 ≠ 1#3 → w.extractLsb' 0 3 ≠ 2#3 → w.extractLsb' 0 3 ≠ 3#3 →
      ∃ s', present .port .request c (w :: t) s = .next s' ∧ SameMachine { s with fault := some .badRequest } s') ∧
    (w.getLsbD 7 = false → w.extractLsb' 5 2 = 0#2 → w.extractLsb' 0 3 = 3#3 → 2 ≤ (w.extractLsb' 3 2).toNat →
      ∃ s', present .port .request c (w :: t) s = .next s' ∧ SameMachine { s with fault := some .badRow } s') ∧
    (w.getLsbD 7 = false → w.extractLsb' 5 2 = 0#2 → w.extractLsb' 0 3 = 1#3 ∨ w.extractLsb' 0 3 = 2#3 →
      w.extractLsb' 3 2 ≠ 0#2 →
      ∃ s', present .port .request c (w :: t) s = .next s' ∧ SameMachine { s with fault := some .badRequest } s') ∧
    (decode .request (w :: t) = .instr .init ↔ w = 0x01#8) ∧
    (decode .request (w :: t) = .instr .clear ↔ w = 0x02#8) ∧
    (decode .request (w :: t) = .instr (.writeRow 0#2 t) ↔ w = 0x03#8) ∧
    (decode .request (w :: t) = .instr (.writeRow 1#2 t) ↔ w = 0x0B#8) ∧
    ∀ (row : BitVec 2) (t' : List Byte), decode .request (w :: t) = .instr (.writeRow row t') →
      t' = t ∧ (row = 0#2 ∨ row = 1#2)

/-- Decoding the encoding of a well-formed instruction gives it back, with every operand at every value. -/
def Obligations.DecodeInvertsEncode : Prop :=
  ∀ i : Instr, i.wf = true → decode i.space (encode i) = .instr i

/-- The decoder answers only well-formed instructions of the space it was asked in, and drops no bit that names the
operation: in the request and nibble spaces the first byte is the one the encoder gives, in the byte space the first two
bytes are, the 9-bit code of R78 standing in both. That the code stands in two bytes, low byte first, is the model's
choice (log 4). -/
def Obligations.DecodedIsWellFormed : Prop :=
  ∀ (sp : Space) (bytes : List Byte) (i : Instr), decode sp bytes = .instr i →
    i.space = sp ∧ i.wf = true ∧ (encode i).head? = bytes.head? ∧
      (sp = .byte → (encode i).take 2 = bytes.take 2)

/-- Words of R75 and R79 decode to the instructions they stand for. The request words and the nibble codes are those
tables' own; that the text follows the request word, that a 9-bit code stands in two bytes, low byte first, and that an
absent cell byte of HD_WRITE_DATA means cell 0, is the model's choice (log 4). -/
def Obligations.KnownWordsDecode : Prop :=
  decode .request [0x01#8] = .instr .init ∧
  decode .request [0x02#8] = .instr .clear ∧
  decode .request [0x0B#8, 0x42#8, 0x79#8] = .instr (.writeRow 1#2 [0x42#8, 0x79#8]) ∧
  decode .nibble [0x03#8] = .instr .hdReset8 ∧
  decode .nibble [0x02#8] = .instr .hdSet4 ∧
  decode .byte [0x28#8, 0x00#8] = .instr .hdFunctionSet ∧
  decode .byte [0xC0#8, 0x00#8] = .instr .hdSetDdramRow1 ∧
  decode .byte [0x48#8, 0x01#8] = .instr (.hdWriteData 0x48#8 0#4)

/-! ### The row -/

/-- R151: the text is cut before its first zero byte; cell i is byte i of what is left, or the padding; bytes from index
16 on are not used; the default padding is 0x20. -/
def Obligations.CellContents : Prop :=
  (∀ pre rest : List Byte, (∀ b ∈ pre, b ≠ 0#8) →
    cutText (pre ++ 0#8 :: rest) = pre ∧ cutText pre = pre) ∧
  (∀ (cfg : Cfg) (t : List Byte) (i : Nat) (b : Byte), (cutText t)[i]? = some b → cell cfg t i = b) ∧
  (∀ (cfg : Cfg) (t : List Byte) (i : Nat), (cutText t).length ≤ i → cell cfg t i = cfg.pad) ∧
  (∀ (cfg : Cfg) (row : BitVec 2) (t : List Byte),
    rowBytes cfg row t = rowBytes cfg row ((cutText t).take 16)) ∧
  Cfg.default.pad = 0x20#8

/-- R152: in the step that accepts a WRITE_ROW the row buffer becomes the address-set command in bytes 0–3, RS = 0, and
cell i in bytes 4+4i to 7+4i, RS = 1; all 68 bytes are written. -/
def Obligations.RowBufferBuiltAtAcceptance : Prop :=
  ∀ (s : State) (k : Channel) (row : BitVec 2) (t : List Byte), s.idleAt s.sel k → s.life = .ready →
    row = 0#2 ∨ row = 1#2 →
    ∃ s' k', exec (.writeRow row t) s = .next s' ∧ s'.chs[s.sel]? = some k' ∧
      k'.rowbuf.length = 68 ∧
      k'.rowbuf.take 4 = byte4 s.cfg (if row = 0#2 then s.cfg.rowCmd0 else s.cfg.rowCmd1) .command ∧
      ∀ i, i < 16 → (k'.rowbuf.drop (4 + 4 * i)).take 4 = byte4 s.cfg (cell s.cfg t i) .data

/-- R155, P1 to P4: the 68 bytes decode to the address command and 16 cells, which are the text left-aligned and padded,
or its first 16 bytes. -/
def Obligations.RowDecodesToItsText : Prop :=
  ∀ (cfg : Cfg) (row : BitVec 2) (t : List Byte),
    (rowBytes cfg row t).length = 68 ∧
    (decodeWireBytes (rowBytes cfg row t)).head? = some (.command, rowCmd cfg row) ∧
    ((cutText t).length < 16 →
      (decodeWireBytes (rowBytes cfg row t)).tail =
        (cutText t ++ List.replicate (16 - (cutText t).length) cfg.pad).map (fun b => (.data, b))) ∧
    (16 ≤ (cutText t).length →
      (decodeWireBytes (rowBytes cfg row t)).tail = ((cutText t).take 16).map (fun b => (.data, b)))

/-! ### Requests: acceptance, refusal -/

/-- R170, R211: INIT on an idle channel of a block that is not initialised becomes the running operation with the
micro-program of R170; nothing but that channel's record and `life` changes. -/
def Obligations.InitAccepted : Prop :=
  ∀ (s : State) (k : Channel), s.idleAt s.sel k → s.life = .uninit →
    exec .init s = .next
      { s with
        life := .initializing
        chs := s.chs.set s.sel
          { k with
            op := some .init
            text := []
            txpend := false
            prog :=
              [.openBus, .wait s.cfg.tPoweron]
                ++ sn s.cfg s.cfg.nibReset .command ++ [.wait s.cfg.tReset1]
                ++ sn s.cfg s.cfg.nibReset .command ++ [.wait s.cfg.tReset2]
                ++ sn s.cfg s.cfg.nibReset .command ++ [.wait s.cfg.tReset2]
                ++ sn s.cfg s.cfg.nib4bit .command ++ [.wait s.cfg.t4bit]
                ++ sb s.cfg s.cfg.cmdFunctionSet .command
                ++ sb s.cfg s.cfg.cmdDisplayOn .command
                ++ sb s.cfg s.cfg.cmdEntryMode .command
                ++ clearCore s.cfg
                ++ [.done .ok] } }

/-- R200, R201, R211: CLEAR on an idle channel of a ready block becomes the running operation, its first budget armed;
the clear wait stands before the release in the atomic form and after it in the other. Nothing but that channel's record
changes. -/
def Obligations.ClearAccepted : Prop :=
  ∀ (s : State) (k : Channel), s.idleAt s.sel k → s.life = .ready →
    exec .clear s = .next
      { s with
        chs := s.chs.set s.sel
          { k with
            op := some .clear
            text := []
            txpend := false
            deadline := s.now + s.cfg.bCmd
            prog :=
              if s.cfg.sendByteAtomic then
                [.acq s.cfg.bCmd,
                 .tx (nib s.cfg (hi s.cfg.cmdClear) .command), .wait s.cfg.tNibble,
                 .tx (nib s.cfg (lo s.cfg.cmdClear) .command), .wait s.cfg.tNibble,
                 .wait s.cfg.tClear, .rel, .done .ok]
              else
                [.acq s.cfg.bCmd, .tx (nib s.cfg (hi s.cfg.cmdClear) .command), .wait s.cfg.tNibble, .rel,
                 .acq s.cfg.bCmd, .tx (nib s.cfg (lo s.cfg.cmdClear) .command), .wait s.cfg.tNibble, .rel,
                 .wait s.cfg.tClear, .done .ok] } }

/-- R150, R152, R211: WRITE_ROW on an idle channel of a ready block becomes the running operation, its buffer built and
its budget armed; nothing but that channel's record changes. -/
def Obligations.WriteRowAccepted : Prop :=
  ∀ (s : State) (k : Channel) (row : BitVec 2) (t : List Byte), s.idleAt s.sel k → s.life = .ready →
    row = 0#2 ∨ row = 1#2 →
    exec (.writeRow row t) s = .next
      { s with
        chs := s.chs.set s.sel
          { k with
            op := some (.writeRow row)
            text := t
            txpend := false
            deadline := s.now + s.cfg.bRow
            rowbuf := rowBytes s.cfg row t
            prog := [.acq s.cfg.bRow, .txRow, .rel, .done .ok] } }

/-- R211–R213: a request the lifecycle forbids, a row outside 0 and 1, and an internal operation presented at the port each
raise their fault and change nothing else. -/
def Obligations.ForbiddenRequestsFault : Prop :=
  ∀ (s : State) (k : Channel), s.idleAt s.sel k →
    (s.life ≠ .uninit → exec .init s = .next { s with fault := some .initTwice }) ∧
    (s.life ≠ .ready → exec .clear s = .next { s with fault := some .notReady }) ∧
    (∀ (row : BitVec 2) (t : List Byte), row = 0#2 ∨ row = 1#2 → s.life ≠ .ready →
      exec (.writeRow row t) s = .next { s with fault := some .notReady }) ∧
    (∀ (row : BitVec 2) (t : List Byte), 2 ≤ row.toNat →
      exec (.writeRow row t) s = .next { s with fault := some .badRow }) ∧
    (∀ (b : Byte) (rs : Mode), s.via = .port →
      exec (.sendNibble b rs) s = .next { s with fault := some .badRequest } ∧
      exec (.sendByte b rs) s = .next { s with fault := some .badRequest })

/-- R210, R66 (the model's convention of log 7): on a busy channel, or one that does not exist, no instruction does
anything. -/
def Obligations.BusyChannelsAreLeftAlone : Prop :=
  ∀ (s : State) (i : Instr), s.fault = none → s.life ≠ .fatal →
    s.chs[s.sel]? = none ∨ (∃ k, s.busyAt s.sel k) → exec i s = .next s

/-! ### The internal operations and the emitted commands -/

/-- R132: SEND_NIBBLE inside the block adds its four micro-operations to the micro-program of the idle channel; nothing
else changes. That it is executed alone, on an idle channel, is the model's choice (log 5). -/
def Obligations.SendNibbleAssembles : Prop :=
  ∀ (s : State) (k : Channel) (n : Byte) (rs : Mode), s.idleAt s.sel k → s.via = .internal →
    exec (.sendNibble n rs) s = .next
      { s with
        chs := s.chs.set s.sel
          { k with
            prog := k.prog ++
              [.acq s.cfg.bCmd, .tx [pkt s.cfg n rs true, pkt s.cfg n rs false], .wait s.cfg.tNibble, .rel] } }

/-- R133–R135: SEND_BYTE inside the block adds one guard hold with both nibbles, or one hold for each. That it is
executed alone, on an idle channel, is the model's choice (log 5). -/
def Obligations.SendByteAssembles : Prop :=
  ∀ (s : State) (k : Channel) (v : Byte) (rs : Mode), s.idleAt s.sel k → s.via = .internal →
    exec (.sendByte v rs) s = .next
      { s with
        chs := s.chs.set s.sel
          { k with
            prog := k.prog ++
              if s.cfg.sendByteAtomic then
                [.acq s.cfg.bCmd, .tx (nib s.cfg (hi v) rs), .wait s.cfg.tNibble,
                 .tx (nib s.cfg (lo v) rs), .wait s.cfg.tNibble, .rel]
              else
                [.acq s.cfg.bCmd, .tx (nib s.cfg (hi v) rs), .wait s.cfg.tNibble, .rel,
                 .acq s.cfg.bCmd, .tx (nib s.cfg (lo v) rs), .wait s.cfg.tNibble, .rel] } }

/-- R182, R183: the nibble commands add the nibble transfer of their configured value, RS = 0. That they are executed
alone, on an idle channel, is the model's choice (log 5). -/
def Obligations.NibbleCommandsAssemble : Prop :=
  ∀ (s : State) (k : Channel), s.idleAt s.sel k →
    exec .hdReset8 s = .next
      { s with chs := s.chs.set s.sel { k with prog := k.prog ++ sn s.cfg s.cfg.nibReset .command } } ∧
    exec .hdSet4 s = .next
      { s with chs := s.chs.set s.sel { k with prog := k.prog ++ sn s.cfg s.cfg.nib4bit .command } }

/-- R184–R187: the byte commands add the byte transfer of their configured value, RS = 0; the clear command adds its
settle time with it, as CLEAR_CORE does. That they are executed alone, on an idle channel, is the model's choice (log
5). -/
def Obligations.ByteCommandsAssemble : Prop :=
  ∀ (s : State) (k : Channel), s.idleAt s.sel k →
    exec .hdFunctionSet s = .next
      { s with chs := s.chs.set s.sel { k with prog := k.prog ++ sb s.cfg s.cfg.cmdFunctionSet .command } } ∧
    exec .hdDisplayOn s = .next
      { s with chs := s.chs.set s.sel { k with prog := k.prog ++ sb s.cfg s.cfg.cmdDisplayOn .command } } ∧
    exec .hdEntryMode s = .next
      { s with chs := s.chs.set s.sel { k with prog := k.prog ++ sb s.cfg s.cfg.cmdEntryMode .command } } ∧
    exec .hdClear s = .next
      { s with chs := s.chs.set s.sel { k with prog := k.prog ++ clearCore s.cfg } }

/-- R188–R190: the row commands write their four wire bytes into the row buffer: the address command of each row, RS =
0, at bytes 0–3, and a character, RS = 1, at bytes 4+4i to 7+4i; every other byte of the buffer and everything else
stays. That they are executed alone, on an idle channel, is the model's choice (log 5). -/
def Obligations.RowCommandsFillBuffer : Prop :=
  ∀ (s : State) (k : Channel) (d : Byte) (i : BitVec 4), s.idleAt s.sel k →
    exec .hdSetDdramRow0 s = .next
      { s with
        chs := s.chs.set s.sel
          { k with rowbuf := byte4 s.cfg s.cfg.rowCmd0 .command ++ k.rowbuf.drop 4 } } ∧
    exec .hdSetDdramRow1 s = .next
      { s with
        chs := s.chs.set s.sel
          { k with rowbuf := byte4 s.cfg s.cfg.rowCmd1 .command ++ k.rowbuf.drop 4 } } ∧
    exec (.hdWriteData d i) s = .next
      { s with
        chs := s.chs.set s.sel
          { k with
            rowbuf := k.rowbuf.take (4 + 4 * i.toNat) ++ byte4 s.cfg d .data ++
              k.rowbuf.drop (8 + 4 * i.toNat) } }

/-- R79: the wire bytes of the emitted commands with the default configuration. -/
def Obligations.DefaultCommandBytes : Prop :=
  nib Cfg.default Cfg.default.nibReset .command = [0x3C#8, 0x38#8] ∧
  nib Cfg.default Cfg.default.nib4bit .command = [0x2C#8, 0x28#8] ∧
  byte4 Cfg.default Cfg.default.cmdFunctionSet .command = [0x2C#8, 0x28#8, 0x8C#8, 0x88#8] ∧
  byte4 Cfg.default Cfg.default.cmdDisplayOn .command = [0x0C#8, 0x08#8, 0xCC#8, 0xC8#8] ∧
  byte4 Cfg.default Cfg.default.cmdEntryMode .command = [0x0C#8, 0x08#8, 0x6C#8, 0x68#8] ∧
  byte4 Cfg.default Cfg.default.cmdClear .command = [0x0C#8, 0x08#8, 0x1C#8, 0x18#8] ∧
  byte4 Cfg.default Cfg.default.rowCmd0 .command = [0x8C#8, 0x88#8, 0x0C#8, 0x08#8] ∧
  byte4 Cfg.default Cfg.default.rowCmd1 .command = [0xCC#8, 0xC8#8, 0x0C#8, 0x08#8] ∧
  byte4 Cfg.default 0x48#8 .data = [0x4D#8, 0x49#8, 0x8D#8, 0x89#8]

/-- R170, R182–R187: INIT's micro-program is what the emitted commands, executed on an idle channel, assemble, in the
order of its five steps with the inter-step waits between them. That the commands are executed alone is the model's
choice (log 5). -/
def Obligations.InitIsAssembledFromCommands : Prop :=
  ∀ (s : State) (k : Channel), s.idleAt s.sel k → s.life = .uninit → k.prog = [] →
    ∃ reset8 set4 functionSet displayOn entryMode clear : List MicroOp,
      exec .hdReset8 s = .next (s.setCh s.sel { k with prog := reset8 }) ∧
      exec .hdSet4 s = .next (s.setCh s.sel { k with prog := set4 }) ∧
      exec .hdFunctionSet s = .next (s.setCh s.sel { k with prog := functionSet }) ∧
      exec .hdDisplayOn s = .next (s.setCh s.sel { k with prog := displayOn }) ∧
      exec .hdEntryMode s = .next (s.setCh s.sel { k with prog := entryMode }) ∧
      exec .hdClear s = .next (s.setCh s.sel { k with prog := clear }) ∧
      ∃ t k', exec .init s = .next t ∧ t.chs[s.sel]? = some k' ∧
        k'.prog = [.openBus, .wait s.cfg.tPoweron]
          ++ reset8 ++ [.wait s.cfg.tReset1] ++ reset8 ++ [.wait s.cfg.tReset2] ++ reset8 ++ [.wait s.cfg.tReset2]
          ++ set4 ++ [.wait s.cfg.t4bit] ++ functionSet ++ displayOn ++ entryMode ++ clear ++ [.done .ok]

/-- R152, R188–R190: the row commands, executed one after the other for the 16 cells, build the buffer a WRITE_ROW
builds at its acceptance. That the commands are executed alone is the model's choice (log 5). -/
def Obligations.RowIsAssembledFromCommands : Prop :=
  ∀ (s : State) (k : Channel) (text : List Byte), s.idleAt s.sel k → k.rowbuf.length = 68 →
    execAll (.hdSetDdramRow0 ::
        (List.range 16).map (fun i => .hdWriteData (cell s.cfg text i) (BitVec.ofNat 4 i))) s =
      .next (s.setCh s.sel { k with rowbuf := rowBytes s.cfg 0#2 text }) ∧
    execAll (.hdSetDdramRow1 ::
        (List.range 16).map (fun i => .hdWriteData (cell s.cfg text i) (BitVec.ofNat 4 i))) s =
      .next (s.setCh s.sel { k with rowbuf := rowBytes s.cfg 1#2 text })

/-! ### Steps -/

/-- A step runs the decoded instruction: a request a requester presents, an instruction placed on a channel, and a table
word placed by withFetchWord are each executed by the very next step, in the state as it stands but for the model's own
fields; with nothing placed and nothing on the agenda the step makes the free move (R11, R100; logs 2 and 5). -/
def Obligations.StepRunsDecodedInstruction : Prop :=
  (∀ (s u : State) (c : Nat) (w : Byte) (t : List Byte) (i : Instr), s.takes (.issue c w t) u →
    decode .request (w :: t) = .instr i → step s = exec i { u with sel := c, via := .port }) ∧
  (∀ (s : State) (p : Presented) (i : Instr), cfgValid s.cfg = true → s.fault = none → s.life ≠ .fatal →
    s.slot = some p → decode p.space p.bytes = .instr i →
    step s = exec i { s with slot := none, sel := p.ch, via := p.via }) ∧
  (∀ (s : State) (nbits w : Nat) (i : Instr), cfgValid s.cfg = true → s.fault = none → s.life ≠ .fatal →
    decodeTableWord nbits w = some i →
    step (s.withFetchWord nbits w) =
      exec i { s with slot := none, sel := idleChannel s, via := spaceVia (tableSpace nbits) }) ∧
  ∀ s : State, cfgValid s.cfg = true → s.fault = none → s.life ≠ .fatal → s.slot = none → s.agenda = [] →
    step s = perform (Config.freeMove s.draws) { s with draws := s.draws + 1 }

/-- R8: a configuration that fails the constraints is refused at power-on and never run. -/
def Obligations.BadConfigurationRefused : Prop :=
  ∀ (cfg : Cfg) (s : State),
    (cfg.nreq = 0 ∨ cfg.nibReset &&& 0x0F#8 ≠ 0#8 ∨ cfg.nib4bit &&& 0x0F#8 ≠ 0#8 →
      powerOn cfg = .refused .badConfig ∧ (s.cfg = cfg → step s = .refused .badConfig)) ∧
    (cfg.nreq ≠ 0 → cfg.nibReset &&& 0x0F#8 = 0#8 → cfg.nib4bit &&& 0x0F#8 = 0#8 →
      powerOn cfg = .next (State.resetOf cfg))

/-- R100, R214, R222: while a fault is set, and once `life = FATAL`, no agent has a step: every step and every
instruction stops under that state's name. The name it stops under is the model's choice (log 8). -/
def Obligations.HaltedStatesHaveNoStep : Prop :=
  ∀ (s : State) (i : Instr), cfgValid s.cfg = true →
    (∀ r, s.fault = some r → step s = .fault (.halted r) ∧ exec i s = .fault (.halted r)) ∧
    (s.fault = none → s.life = .fatal → step s = .fault .aborted ∧ exec i s = .fault .aborted)

/-- R32, R103: popping arms the new head: a WAIT or an ACQ from now, anything else keeps the deadline; no other channel
and nothing else changes. -/
def Obligations.PopArmsTheNewHead : Prop :=
  ∀ (s : State) (c : Nat) (k : Channel) (head : MicroOp) (rest : List MicroOp),
    s.chs[c]? = some k → k.prog = head :: rest →
    ∃ k', s.pop c = { s with chs := s.chs.set c k' } ∧ (s.pop c).chs[c]? = some k' ∧
      k'.prog = rest ∧ k'.txpend = false ∧ k'.op = k.op ∧ k'.rowbuf = k.rowbuf ∧ k'.result = k.result ∧
      k'.text = k.text ∧
      (∀ d p, rest = .wait d :: p → k'.deadline = s.now + d) ∧
      (∀ b p, rest = .acq b :: p → k'.deadline = s.now + b) ∧
      ((∀ d p, rest ≠ .wait d :: p) → (∀ b p, rest ≠ .acq b :: p) → k'.deadline = k.deadline)

/-- R116, R219: failure releases the guard if the channel holds it and replaces the micro-program by the operation's
failure tail, armed; nothing else changes. -/
def Obligations.FailureReleasesAndReplacesProgram : Prop :=
  ∀ (s : State) (c : Nat) (k : Channel) (e : Result), s.chs[c]? = some k →
    (s.fail c e).guard = (if s.guard = some c then none else s.guard) ∧
    (k.op = some .init →
      s.fail c e =
        { s with
          guard := (s.fail c e).guard
          chs := s.chs.set c { k with prog := [.done .fatal], txpend := false } }) ∧
    (k.op = some .clear →
      s.fail c e =
        { s with
          guard := (s.fail c e).guard
          chs := s.chs.set c
            { k with
              prog := [.wait s.cfg.tClear, .done e]
              txpend := false
              deadline := s.now + s.cfg.tClear } }) ∧
    (∀ row, k.op = some (.writeRow row) →
      s.fail c e =
        { s with
          guard := (s.fail c e).guard
          chs := s.chs.set c { k with prog := [.done e], txpend := false } })

/-- R104: a channel at OPEN opens the session and goes on, or fails with FATAL, as the draw says; nothing goes on the
wire and no time passes. The move comes from the agenda (log 2). -/
def Obligations.OpenSucceedsOrIsFatal : Prop :=
  ∀ (s u : State) (c : Nat) (k : Channel) (p : List MicroOp), u.busyAt c k → k.prog = .openBus :: p →
    (s.takes (.run c .take) u →
      step s = .next { u with session := .opened, chs := u.chs.set c (k.armedWith u.now p) }) ∧
    (s.takes (.run c .giveUp) u → step s = .next (u.fail c .fatal))

/-- R105: a channel at ACQ takes the guard when it is free, whatever the time; while it is held there is no grant. The
move comes from the agenda (log 2); a move that is not enabled is passed over (log 7). -/
def Obligations.GuardGrantedWhenFree : Prop :=
  ∀ (s u : State) (c : Nat) (k : Channel) (b : Nat) (p : List MicroOp), s.takes (.run c .take) u → u.busyAt c k →
    k.prog = .acq b :: p →
    (u.guard = none → step s = .next { u with guard := some c, chs := u.chs.set c (k.armedWith u.now p) }) ∧
    (u.guard ≠ none → step s = .next u)

/-- R107: a channel at ACQ may time out once its deadline is reached, never before, whether the guard is free or
another's; and an ACQ that becomes head has its deadline its budget from now. The move comes from the agenda (log 2); a
move that is not enabled is passed over (log 7). -/
def Obligations.GuardTimeoutFromTheDeadline : Prop :=
  (∀ (s u : State) (c : Nat) (k : Channel) (b : Nat) (p : List MicroOp), s.takes (.run c .giveUp) u → u.busyAt c k →
    k.prog = .acq b :: p →
    (u.guard ≠ some c → k.deadline ≤ u.now → step s = .next (u.fail c .timedout)) ∧
    (u.guard = some c ∨ u.now < k.deadline → step s = .next u)) ∧
  ∀ (k : Channel) (now b : Nat) (p : List MicroOp), (k.armedWith now (.acq b :: p)).deadline = now + b

/-- R108: a channel at REL frees the guard and goes on. The move comes from the agenda (log 2). -/
def Obligations.ReleaseFreesTheGuard : Prop :=
  ∀ (s u : State) (c : Nat) (k : Channel) (pick : Pick) (p : List MicroOp), s.takes (.run c pick) u → u.busyAt c k →
    k.prog = .rel :: p →
    step s = .next { u with guard := none, chs := u.chs.set c (k.armedWith u.now p) }

/-- R109: a channel at TX issues its bytes, or its row buffer, when it holds the guard, the bus is idle and the session
open, and it has not issued them yet; otherwise it has no step. The move comes from the agenda (log 2); a move that is
not enabled is passed over (log 7). -/
def Obligations.TransmissionIssuedUnderGuard : Prop :=
  ∀ (s u : State) (c : Nat) (k : Channel) (pick : Pick) (p : List MicroOp) (bytes : List Byte),
    s.takes (.run c pick) u → u.busyAt c k →
    k.prog = .tx bytes :: p ∨ (k.prog = .txRow :: p ∧ bytes = k.rowbuf) →
    (k.txpend = false → u.guard = some c → u.bus = .idle → u.session = .opened →
      step s = .next
        { u with bus := .busy c bytes u.now, chs := u.chs.set c { k with txpend := true } }) ∧
    (k.txpend = true ∨ u.guard ≠ some c ∨ u.bus ≠ .idle ∨ u.session = .closed → step s = .next u)

/-- R110: the bus agent completes the transmission in flight with any allowed outcome: the event goes on the trace, the
bus is idle, and the channel pops on OK and fails with the outcome otherwise; a failure delivers no more than was sent,
TIMEDOUT is not allowed before T_XFER, and no outcome without a transmission. The move comes from the agenda (log 2); a
move that is not enabled is passed over (log 7). -/
def Obligations.BusCompletion : Prop :=
  ∀ (s u : State) (o : TxOutcome) (n : Nat), s.takes (.complete o n) u →
    (∀ (c : Nat) (bytes : List Byte) (t0 : Nat), u.bus = .busy c bytes t0 →
      (o = .ok → step s = .next
        (State.pop
          { u with
            bus := .idle
            wire := u.wire ++ [⟨c, t0, u.now, bytes, bytes, .ok⟩] } c)) ∧
      (o = .buserror → n ≤ bytes.length → step s = .next
        (State.fail
          { u with
            bus := .idle
            wire := u.wire ++ [⟨c, t0, u.now, bytes, bytes.take n, .buserror⟩] } c .buserror)) ∧
      (o = .timedout → n ≤ bytes.length → t0 + u.cfg.tXfer ≤ u.now → step s = .next
        (State.fail
          { u with
            bus := .idle
            wire := u.wire ++ [⟨c, t0, u.now, bytes, bytes.take n, .timedout⟩] } c .timedout)) ∧
      (o ≠ .ok → bytes.length < n → step s = .next u) ∧
      (o = .timedout → u.now < t0 + u.cfg.tXfer → step s = .next u)) ∧
    (u.bus = .idle → step s = .next u)

/-- R112, R114: a channel at WAIT goes on from its deadline and not before, the guard left as it is; a WAIT that
becomes head has its deadline its duration from now. The move comes from the agenda (log 2); a move that is not enabled
is passed over (log 7). -/
def Obligations.WaitEndsAtOrAfterItsDeadline : Prop :=
  (∀ (s u : State) (c : Nat) (k : Channel) (pick : Pick) (d : Nat) (p : List MicroOp), s.takes (.run c pick) u →
    u.busyAt c k → k.prog = .wait d :: p →
    (k.deadline ≤ u.now → step s = .next { u with chs := u.chs.set c (k.armedWith u.now p) }) ∧
    (u.now < k.deadline → step s = .next u)) ∧
  ∀ (k : Channel) (now d : Nat) (p : List MicroOp), (k.armedWith now (.wait d :: p)).deadline = now + d

/-- R115, R38: DONE records the result, makes the channel idle, and for INIT settles the lifecycle; the result is
returned to its channel with the request it answers, the operation, its row and its text, after the results that channel
had, and no other channel's results change. The record of results is the model's own (log 9); the move comes from the
agenda (log 2). -/
def Obligations.DoneFinishesTheOperation : Prop :=
  ∀ (s u : State) (c : Nat) (k : Channel) (pick : Pick) (op : Op) (r : Result) (p : List MicroOp),
    s.takes (.run c pick) u → u.chs[c]? = some k → k.op = some op → k.prog = .done r :: p →
    ∃ t : State,
      step s = .next t ∧
      t =
        { u with
          life := if op = .init then (if r = .ok then .ready else .fatal) else u.life
          chs := u.chs.set c { k with result := some r, op := none, prog := [] }
          answers := u.answers ++ [⟨c, some ⟨op, k.text⟩, r⟩] } ∧
      t.resultsOf c = u.resultsOf c ++ [⟨c, some ⟨op, k.text⟩, r⟩] ∧
      ∀ c' : Nat, c' ≠ c → t.resultsOf c' = u.resultsOf c'

/-- R101: the time agent advances the time by any positive amount while some channel is busy, and only then. The move
comes from the agenda (log 2); a move that is not enabled is passed over (log 7). -/
def Obligations.TimeAdvancesWhileBusy : Prop :=
  ∀ (s u : State) (delta : Nat), s.takes (.tick delta) u →
    (1 ≤ delta → (∃ c k, u.busyAt c k) → step s = .next { u with now := u.now + delta }) ∧
    (delta = 0 ∨ (∀ k ∈ u.chs, k.op = none) → step s = .next u)

/-! ### Reset and status -/

/-- R240, R22, R23: what reset leaves, for every configuration; the row buffer, unspecified there, is not stated. -/
def Obligations.ResetState : Prop :=
  ∀ cfg : Cfg,
    (State.resetOf cfg).cfg = cfg ∧ (State.resetOf cfg).now = 0 ∧ (State.resetOf cfg).life = .uninit ∧
    (State.resetOf cfg).session = .closed ∧ (State.resetOf cfg).guard = none ∧ (State.resetOf cfg).bus = .idle ∧
    (State.resetOf cfg).wire = [] ∧ (State.resetOf cfg).fault = none ∧ (State.resetOf cfg).chs.length = cfg.nreq ∧
    ∀ k ∈ (State.resetOf cfg).chs,
      k.op = none ∧ k.prog = [] ∧ k.deadline = 0 ∧ k.txpend = false ∧ k.result = none

/-- R34, R76: the bits of the status view, for every state, and the channel flags. While there is no result the code of
`RESULT` is a free value (log 3), not stated. -/
def Obligations.StatusView : Prop :=
  ∀ s : State,
    (statusByte s).extractLsb' 0 2 =
      (match s.life with
        | .uninit => 0#2
        | .initializing => 1#2
        | .ready => 2#2
        | .fatal => 3#2) ∧
    (statusByte s).getLsbD 2 = decide (s.session = .opened) ∧
    (statusByte s).getLsbD 3 = decide (s.guard ≠ none) ∧
    (statusByte s).getLsbD 4 = decide (s.bus ≠ .idle) ∧
    (statusByte s).getLsbD 5 = decide (s.fault ≠ none) ∧
    (statusByte s).extractLsb' 6 2 = 0#2 ∧
    ∀ (c : Nat) (k : Channel), s.chs[c]? = some k →
      busyFlag s c = decide (k.op ≠ none) ∧
      (k.result = some .ok → resultView s c = 0#2) ∧
      (k.result = some .timedout → resultView s c = 1#2) ∧
      (k.result = some .buserror → resultView s c = 2#2) ∧
      (k.result = some .fatal → resultView s c = 3#2)

/-! ### Invariants and whole-machine rules -/

/-- Every reset state meets the structural invariant and every other property that the steps keep: fixed
micro-programs, the trace's order, shape and settle times, INIT's trace and CLEAR's wait. -/
def Obligations.InvariantAtReset : Prop :=
  ∀ cfg : Cfg, cfgValid cfg = true →
    Inv (State.resetOf cfg) ∧ ProgramsFixed (State.resetOf cfg) ∧ TraceOrdered (State.resetOf cfg) ∧
      WireShaped (State.resetOf cfg) ∧ Settled (State.resetOf cfg) ∧ InitTraced (State.resetOf cfg) ∧
      ClearTimed (State.resetOf cfg)

/-- Every step keeps the structural invariant. -/
def Obligations.StepKeepsInvariant : Prop := ∀ s t : State, Inv s → step s = .next t → Inv t

/-- The structural invariant implies the invariants of R37, I1 to I7. -/
def Obligations.InvariantImpliesSpecInvariants : Prop := ∀ s : State, Inv s → SpecInvariants s

/-- R31, R66: every step keeps each micro-program what is left of the one fixed at acceptance, or of a failure tail. -/
def Obligations.StepKeepsProgramsFixed : Prop := ∀ s t : State, ProgramsFixed s → step s = .next t → ProgramsFixed t

/-- R62, R63: every step keeps the trace in time order. -/
def Obligations.StepKeepsTraceOrder : Prop := ∀ s t : State, TraceOrdered s → step s = .next t → TraceOrdered t

/-- R57, R80: every step keeps the trace made of transmissions the block can produce. -/
def Obligations.StepKeepsWireShape : Prop :=
  ∀ s t : State, Inv s → WireShaped s → step s = .next t → WireShaped t

/-- R63, R250: every step keeps the settle time of every nibble before the next transmission of any channel. -/
def Obligations.StepKeepsSettleTime : Prop :=
  ∀ s t : State, Inv s → TraceOrdered s → Settled s → step s = .next t → Settled t

/-- R179, R180: every step keeps INIT's trace: what it transmitted and what it still has to transmit are its 12 packets in
order, and those are the first 12 events once it has returned OK. -/
def Obligations.StepKeepsInitTrace : Prop :=
  ∀ s t : State, Inv s → InitTraced s → step s = .next t → InitTraced t

/-- R203: every step keeps CLEAR's wait measured from the last transmission it completed. -/
def Obligations.StepKeepsClearTime : Prop :=
  ∀ s t : State, Inv s → ProgramsFixed s → TraceOrdered s → ClearTimed s → step s = .next t → ClearTimed t

/-- R203: a step that returns a CLEAR's result does so at least T_CLEAR after every transmission of its channel
completed, whatever the result. -/
def Obligations.ClearNeverReturnsEarly : Prop :=
  ∀ (s t : State) (c : Nat) (text : List Byte) (r : Result), Inv s → ProgramsFixed s → ClearTimed s → step s = .next t →
    t.answers = s.answers ++ [⟨c, some ⟨.clear, text⟩, r⟩] →
    ∀ e ∈ t.wire, e.ch = c → e.t1 + s.cfg.tClear ≤ t.now

/-- Every reachable state meets the invariants of R37; its trace is in time order with the settle time of every nibble
kept (R63), and holds nothing the block does not produce (R27, R80, R226); and a READY block's trace begins with INIT's
12 packets (R180, R243), for every configuration. Which states are reachable rests on the schedule of moves, the
model's choice: the environment puts whatever moves it likes on the agenda (log 2). -/
def Obligations.ReachableStatesMeetTheSpecInvariants : Prop :=
  ∀ s : State, Reachable s → SpecInvariants s ∧ TraceOrdered s ∧ Settled s ∧ WireShaped s ∧
    (s.life = .ready → (s.wire.take 12).map (fun e => e.sent) = initPackets s.cfg)

/-- R28, R59: what a step appends to the trace is the transmission in flight, and its channel holds the guard. -/
def Obligations.OnlyTheGuardHolderTransmits : Prop :=
  ∀ s t : State, Inv s → step s = .next t → t.wire = s.wire ∨
    ∃ e : WireEvent, t.wire = s.wire ++ [e] ∧ s.guard = some e.ch ∧ s.bus = .busy e.ch e.sent e.t0 ∧ e.t1 = s.now

/-- R111: a step leaves a transmission in flight alone or completes it. -/
def Obligations.TransmissionsAreNotCancelled : Prop :=
  ∀ (s t : State) (c : Nat) (bytes : List Byte) (t0 : Nat), s.bus = .busy c bytes t0 → step s = .next t →
    t.bus = .busy c bytes t0 ∨
      (t.bus = .idle ∧ ∃ e : WireEvent, t.wire = s.wire ++ [e] ∧ e.ch = c ∧ e.sent = bytes ∧ e.t0 = t0)

/-- R6, R34: no step writes the configuration. -/
def Obligations.ConfigurationNeverWritten : Prop := ∀ s t : State, step s = .next t → t.cfg = s.cfg

/-- R29: time only increases, and a step that moves it changes nothing else of the machine. -/
def Obligations.TimeMovesOnlyAlone : Prop :=
  ∀ s t : State, step s = .next t →
    s.now ≤ t.now ∧ (t.now ≠ s.now → SameMachine { s with now := t.now } t)

/-- R24: the lifecycle moves only from UNINIT to INITIALIZING, with INIT accepted on a channel, and from INITIALIZING to
READY or FATAL, when INIT's DONE runs. -/
def Obligations.LifecycleMoves : Prop :=
  ∀ s t : State, Inv s → step s = .next t → t.life = s.life ∨
    (s.life = .uninit ∧ t.life = .initializing ∧
      ∃ (c : Nat) (k k' : Channel), s.chs[c]? = some k ∧ k.op = none ∧ t.chs[c]? = some k' ∧ k'.op = some .init) ∨
    (s.life = .initializing ∧
      ∃ (c : Nat) (k k' : Channel) (r : Result) (p : List MicroOp), s.chs[c]? = some k ∧ k.op = some .init ∧
        k.prog = .done r :: p ∧ t.chs[c]? = some k' ∧ k'.op = none ∧ k'.result = some r ∧
        t.life = if r = .ok then .ready else .fatal)

/-- R25: the session once open stays open, and opens only by the OPEN of a channel running INIT. -/
def Obligations.SessionOpensOnceAndStays : Prop :=
  ∀ s t : State, Inv s → step s = .next t →
    (s.session = .opened → t.session = .opened) ∧
    (s.session = .closed → t.session = .opened →
      ∃ (c : Nat) (k : Channel) (p : List MicroOp), s.chs[c]? = some k ∧ k.op = some .init ∧ k.prog = .openBus :: p)

/-- R26: a step leaves the guard; or takes it, free, for a channel at its ACQ, which goes on; or frees it, by the REL of
the channel that holds it, which goes on, or by that channel's own failure (R116), its transmission completed with
BUSERROR or TIMEDOUT. -/
def Obligations.GuardMoves : Prop :=
  ∀ s t : State, Inv s → step s = .next t → t.guard = s.guard ∨
    (s.guard = none ∧ ∃ (c : Nat) (k k' : Channel) (b : Nat) (p : List MicroOp),
      t.guard = some c ∧ s.chs[c]? = some k ∧ k.prog = .acq b :: p ∧ t.chs[c]? = some k' ∧ k'.prog = p) ∨
    (t.guard = none ∧ ∃ (c : Nat) (k k' : Channel), s.guard = some c ∧ s.chs[c]? = some k ∧ t.chs[c]? = some k' ∧
      ((∃ p : List MicroOp, k.prog = .rel :: p ∧ k'.prog = p) ∨
       (∃ (bytes : List Byte) (t0 : Nat) (e : WireEvent), s.bus = .busy c bytes t0 ∧ t.bus = .idle ∧
          t.wire = s.wire ++ [e] ∧ e.ch = c ∧
          ((e.outcome = .buserror ∧ k'.prog = failTail s.cfg k.op .buserror) ∨
           (e.outcome = .timedout ∧ k'.prog = failTail s.cfg k.op .timedout)))))

/-- R33: a channel's result is written only by its DONE. -/
def Obligations.ResultWrittenOnlyByDone : Prop :=
  ∀ (s t : State) (c : Nat) (k k' : Channel), step s = .next t → s.chs[c]? = some k → t.chs[c]? = some k' →
    k'.result = k.result ∨
      ∃ (r : Result) (p : List MicroOp), k.prog = .done r :: p ∧ k'.result = some r ∧ k'.op = none

/-- R216, R226: a step writes the record of at most one channel. -/
def Obligations.OneChannelAtATime : Prop :=
  ∀ s t : State, step s = .next t → ∃ c : Nat, ∀ c' : Nat, c' ≠ c → t.chs[c']? = s.chs[c']?

/-- R102, R107: in a fair run no acquisition waits for ever: a channel at ACQ takes a step at that ACQ, so it is granted
the guard or times out. -/
def Obligations.AcquisitionEnds : Prop :=
  ∀ (states : Nat → State) (moves : Nat → Move) (n c : Nat) (k : Channel) (b : Nat) (p : List MicroOp),
    IsRun states moves → WeaklyFair states moves → Inv (states 0) →
    (states n).busyAt c k → k.prog = .acq b :: p →
    ∃ m pick k', n ≤ m ∧ moves m = .run c pick ∧ (states m).busyAt c k' ∧ k'.prog = .acq b :: p
end

