-- ==== Sys2Proof/Laws/Operands.lean ====
section
/-! SUPPORT. Facts about the operand assembly and the micro-programs: lengths, NibblePackets, decoding of one controller
byte, and that every micro-program is in order. -/

namespace Sys2Proof.Machine

/-! ### Wire bytes -/

/-- The two bytes of `nib` are a NibblePacket (R72, R137). -/
theorem pkt_isPacket (cfg : Cfg) (n : Byte) (rs : Mode) :
    isPacket cfg.backlight (pkt cfg n rs true) (pkt cfg n rs false) = true := by
  unfold pkt isPacket
  generalize cfg.backlight = b
  cases rs <;> (revert n b; decide)

/-- A NibblePacket is made of NibblePackets only (R80). -/
theorem nib_allPackets (cfg : Cfg) (n : Byte) (rs : Mode) : allPackets cfg.backlight (nib cfg n rs) = true := by
  simp [nib, allPackets, pkt_isPacket]

@[simp] theorem nib_length (cfg : Cfg) (n : Byte) (rs : Mode) : (nib cfg n rs).length = 2 := rfl

@[simp] theorem byte4_length (cfg : Cfg) (v : Byte) (rs : Mode) : (byte4 cfg v rs).length = 4 := rfl

/-- A controller byte in front of a list does not spoil it (R80). -/
theorem byte4_allPackets (cfg : Cfg) (v : Byte) (rs : Mode) (rest : List Byte) :
    allPackets cfg.backlight (byte4 cfg v rs ++ rest) = allPackets cfg.backlight rest := by
  simp [byte4, nib, allPackets, pkt_isPacket]

/-- Decoding takes one controller byte off the front (R83). -/
theorem byte4_decode (cfg : Cfg) (v : Byte) (rs : Mode) (rest : List Byte) :
    decodeWireBytes (byte4 cfg v rs ++ rest) = (rs, v) :: decodeWireBytes rest := by
  simp only [byte4, nib, List.cons_append, List.nil_append, decodeWireBytes]
  congr 1
  simp only [decodeWireByte, pkt]
  generalize cfg.backlight = b
  cases rs <;> (revert v b; decide)

/-! ### The row buffer -/

/-- A RowTransaction is 68 bytes (R7, R35). -/
@[simp] theorem rowBytes_length (cfg : Cfg) (row : BitVec 2) (t : List Byte) : (rowBytes cfg row t).length = 68 := by
  simp [rowBytes, List.length_flatMap]

/-- A RowTransaction is made of NibblePackets only (R80). -/
theorem rowBytes_allPackets (cfg : Cfg) (row : BitVec 2) (t : List Byte) :
    allPackets cfg.backlight (rowBytes cfg row t) = true := by
  have h : ∀ l : List Nat,
      allPackets cfg.backlight (l.flatMap (fun i => byte4 cfg (cell cfg t i) .data)) = true := by
    intro l
    induction l with
    | nil => rfl
    | cons a l ih => rw [List.flatMap_cons, byte4_allPackets]; exact ih
  unfold rowBytes
  rw [byte4_allPackets]
  exact h _

/-- Overwriting inside a buffer keeps its length. -/
theorem writeAt_length (buf : List Byte) (pos : Nat) (bs : List Byte) (h : pos + bs.length ≤ buf.length) :
    (writeAt buf pos bs).length = buf.length := by
  simp [writeAt]
  omega

/-! ### Micro-programs -/

/-- INIT's micro-program is in order from a closed session (R118, R170). -/
theorem progOk_init (cfg : Cfg) : progOk cfg .init false false (initProg cfg) = true := by
  cases h : cfg.sendByteAtomic <;>
    simp [initProg, xferReset8, xferSet4, xferFunctionSet, xferDisplayOn, xferEntryMode, xferClear, clearCore, sb, sbA,
      sbN, sn, nb, h, progOk, nib_allPackets, opReturns]

/-- CLEAR's micro-program is in order (R118, R200). -/
theorem progOk_clear (cfg : Cfg) : progOk cfg .clear false true (clearProg cfg) = true := by
  cases h : cfg.sendByteAtomic <;>
    simp [clearProg, clearCore, sbN, sn, nb, h, progOk, nib_allPackets, opReturns]

/-- WRITE_ROW's micro-program is in order (R118, R150). -/
theorem progOk_writeRow (cfg : Cfg) (row : BitVec 2) :
    progOk cfg (.writeRow row) false true (writeRowProg cfg) = true := by
  simp [writeRowProg, progOk, opReturns, Op.isRow]

/-- A failure tail is in order for every error of a guard timeout or a transmission, and for every error of INIT
(R116). -/
theorem progOk_failTail (cfg : Cfg) (op : Op) (opened : Bool) (e : Result)
    (h : op = .init ∨ e = .timedout ∨ e = .buserror) :
    progOk cfg op false opened (failTail cfg (some op) e) = true := by
  cases op <;> rcases h with h | h | h <;> first | cases h; done | (subst h; simp [failTail, progOk, opReturns]) |
    simp [failTail, progOk, opReturns]

/-! ### The error paths -/

/-- After a failure the guard is not the failing channel's (R116). -/
theorem guardWithout_self (s : State) (c : Nat) : s.guardWithout c ≠ some c := by
  unfold State.guardWithout
  split
  · simp
  · assumption

/-- A failure leaves another channel's hold alone (R116). -/
theorem guardWithout_other (s : State) {c c' : Nat} (h : c' ≠ c) : s.guardWithout c = some c' ↔ s.guard = some c' := by
  unfold State.guardWithout
  split
  · rename_i h1; simp [h1, Ne.symm h]
  · rfl

end Sys2Proof.Machine
end

