-- ==== Sys2Proof/Laws/State.lean ====
section
/-! SUPPORT. For every named update of State, what each field reads after it; and reading a channel record after a
write of one. -/

namespace Sys2Proof.Machine.State

variable (s : State)

@[simp] theorem setCh_cfg (c : Nat) (k : Channel) : (s.setCh c k).cfg = s.cfg := rfl
@[simp] theorem setCh_now (c : Nat) (k : Channel) : (s.setCh c k).now = s.now := rfl
@[simp] theorem setCh_life (c : Nat) (k : Channel) : (s.setCh c k).life = s.life := rfl
@[simp] theorem setCh_session (c : Nat) (k : Channel) : (s.setCh c k).session = s.session := rfl
@[simp] theorem setCh_guard (c : Nat) (k : Channel) : (s.setCh c k).guard = s.guard := rfl
@[simp] theorem setCh_bus (c : Nat) (k : Channel) : (s.setCh c k).bus = s.bus := rfl
@[simp] theorem setCh_wire (c : Nat) (k : Channel) : (s.setCh c k).wire = s.wire := rfl
@[simp] theorem setCh_fault (c : Nat) (k : Channel) : (s.setCh c k).fault = s.fault := rfl
@[simp] theorem setCh_chs (c : Nat) (k : Channel) : (s.setCh c k).chs = s.chs.set c k := rfl
@[simp] theorem setCh_answers (c : Nat) (k : Channel) : (s.setCh c k).answers = s.answers := rfl
@[simp] theorem setCh_agenda (c : Nat) (k : Channel) : (s.setCh c k).agenda = s.agenda := rfl
@[simp] theorem setCh_draws (c : Nat) (k : Channel) : (s.setCh c k).draws = s.draws := rfl
@[simp] theorem setCh_slot (c : Nat) (k : Channel) : (s.setCh c k).slot = s.slot := rfl
@[simp] theorem setCh_sel (c : Nat) (k : Channel) : (s.setCh c k).sel = s.sel := rfl
@[simp] theorem setCh_via (c : Nat) (k : Channel) : (s.setCh c k).via = s.via := rfl

@[simp] theorem withLife_cfg (l : Life) : (s.withLife l).cfg = s.cfg := rfl
@[simp] theorem withLife_now (l : Life) : (s.withLife l).now = s.now := rfl
@[simp] theorem withLife_life (l : Life) : (s.withLife l).life = l := rfl
@[simp] theorem withLife_session (l : Life) : (s.withLife l).session = s.session := rfl
@[simp] theorem withLife_guard (l : Life) : (s.withLife l).guard = s.guard := rfl
@[simp] theorem withLife_bus (l : Life) : (s.withLife l).bus = s.bus := rfl
@[simp] theorem withLife_wire (l : Life) : (s.withLife l).wire = s.wire := rfl
@[simp] theorem withLife_fault (l : Life) : (s.withLife l).fault = s.fault := rfl
@[simp] theorem withLife_chs (l : Life) : (s.withLife l).chs = s.chs := rfl
@[simp] theorem withLife_answers (l : Life) : (s.withLife l).answers = s.answers := rfl
@[simp] theorem withLife_agenda (l : Life) : (s.withLife l).agenda = s.agenda := rfl
@[simp] theorem withLife_draws (l : Life) : (s.withLife l).draws = s.draws := rfl
@[simp] theorem withLife_slot (l : Life) : (s.withLife l).slot = s.slot := rfl
@[simp] theorem withLife_sel (l : Life) : (s.withLife l).sel = s.sel := rfl
@[simp] theorem withLife_via (l : Life) : (s.withLife l).via = s.via := rfl

@[simp] theorem withSession_cfg (x : Session) : (s.withSession x).cfg = s.cfg := rfl
@[simp] theorem withSession_now (x : Session) : (s.withSession x).now = s.now := rfl
@[simp] theorem withSession_life (x : Session) : (s.withSession x).life = s.life := rfl
@[simp] theorem withSession_session (x : Session) : (s.withSession x).session = x := rfl
@[simp] theorem withSession_guard (x : Session) : (s.withSession x).guard = s.guard := rfl
@[simp] theorem withSession_bus (x : Session) : (s.withSession x).bus = s.bus := rfl
@[simp] theorem withSession_wire (x : Session) : (s.withSession x).wire = s.wire := rfl
@[simp] theorem withSession_fault (x : Session) : (s.withSession x).fault = s.fault := rfl
@[simp] theorem withSession_chs (x : Session) : (s.withSession x).chs = s.chs := rfl
@[simp] theorem withSession_answers (x : Session) : (s.withSession x).answers = s.answers := rfl
@[simp] theorem withSession_agenda (x : Session) : (s.withSession x).agenda = s.agenda := rfl
@[simp] theorem withSession_draws (x : Session) : (s.withSession x).draws = s.draws := rfl
@[simp] theorem withSession_slot (x : Session) : (s.withSession x).slot = s.slot := rfl
@[simp] theorem withSession_sel (x : Session) : (s.withSession x).sel = s.sel := rfl
@[simp] theorem withSession_via (x : Session) : (s.withSession x).via = s.via := rfl

@[simp] theorem withGuard_cfg (g : Option Nat) : (s.withGuard g).cfg = s.cfg := rfl
@[simp] theorem withGuard_now (g : Option Nat) : (s.withGuard g).now = s.now := rfl
@[simp] theorem withGuard_life (g : Option Nat) : (s.withGuard g).life = s.life := rfl
@[simp] theorem withGuard_session (g : Option Nat) : (s.withGuard g).session = s.session := rfl
@[simp] theorem withGuard_guard (g : Option Nat) : (s.withGuard g).guard = g := rfl
@[simp] theorem withGuard_bus (g : Option Nat) : (s.withGuard g).bus = s.bus := rfl
@[simp] theorem withGuard_wire (g : Option Nat) : (s.withGuard g).wire = s.wire := rfl
@[simp] theorem withGuard_fault (g : Option Nat) : (s.withGuard g).fault = s.fault := rfl
@[simp] theorem withGuard_chs (g : Option Nat) : (s.withGuard g).chs = s.chs := rfl
@[simp] theorem withGuard_answers (g : Option Nat) : (s.withGuard g).answers = s.answers := rfl
@[simp] theorem withGuard_agenda (g : Option Nat) : (s.withGuard g).agenda = s.agenda := rfl
@[simp] theorem withGuard_draws (g : Option Nat) : (s.withGuard g).draws = s.draws := rfl
@[simp] theorem withGuard_slot (g : Option Nat) : (s.withGuard g).slot = s.slot := rfl
@[simp] theorem withGuard_sel (g : Option Nat) : (s.withGuard g).sel = s.sel := rfl
@[simp] theorem withGuard_via (g : Option Nat) : (s.withGuard g).via = s.via := rfl

@[simp] theorem withBus_cfg (b : Bus) : (s.withBus b).cfg = s.cfg := rfl
@[simp] theorem withBus_now (b : Bus) : (s.withBus b).now = s.now := rfl
@[simp] theorem withBus_life (b : Bus) : (s.withBus b).life = s.life := rfl
@[simp] theorem withBus_session (b : Bus) : (s.withBus b).session = s.session := rfl
@[simp] theorem withBus_guard (b : Bus) : (s.withBus b).guard = s.guard := rfl
@[simp] theorem withBus_bus (b : Bus) : (s.withBus b).bus = b := rfl
@[simp] theorem withBus_wire (b : Bus) : (s.withBus b).wire = s.wire := rfl
@[simp] theorem withBus_fault (b : Bus) : (s.withBus b).fault = s.fault := rfl
@[simp] theorem withBus_chs (b : Bus) : (s.withBus b).chs = s.chs := rfl
@[simp] theorem withBus_answers (b : Bus) : (s.withBus b).answers = s.answers := rfl
@[simp] theorem withBus_agenda (b : Bus) : (s.withBus b).agenda = s.agenda := rfl
@[simp] theorem withBus_draws (b : Bus) : (s.withBus b).draws = s.draws := rfl
@[simp] theorem withBus_slot (b : Bus) : (s.withBus b).slot = s.slot := rfl
@[simp] theorem withBus_sel (b : Bus) : (s.withBus b).sel = s.sel := rfl
@[simp] theorem withBus_via (b : Bus) : (s.withBus b).via = s.via := rfl

@[simp] theorem logWire_cfg (e : WireEvent) : (s.logWire e).cfg = s.cfg := rfl
@[simp] theorem logWire_now (e : WireEvent) : (s.logWire e).now = s.now := rfl
@[simp] theorem logWire_life (e : WireEvent) : (s.logWire e).life = s.life := rfl
@[simp] theorem logWire_session (e : WireEvent) : (s.logWire e).session = s.session := rfl
@[simp] theorem logWire_guard (e : WireEvent) : (s.logWire e).guard = s.guard := rfl
@[simp] theorem logWire_bus (e : WireEvent) : (s.logWire e).bus = s.bus := rfl
@[simp] theorem logWire_wire (e : WireEvent) : (s.logWire e).wire = s.wire ++ [e] := rfl
@[simp] theorem logWire_fault (e : WireEvent) : (s.logWire e).fault = s.fault := rfl
@[simp] theorem logWire_chs (e : WireEvent) : (s.logWire e).chs = s.chs := rfl
@[simp] theorem logWire_answers (e : WireEvent) : (s.logWire e).answers = s.answers := rfl
@[simp] theorem logWire_agenda (e : WireEvent) : (s.logWire e).agenda = s.agenda := rfl
@[simp] theorem logWire_draws (e : WireEvent) : (s.logWire e).draws = s.draws := rfl
@[simp] theorem logWire_slot (e : WireEvent) : (s.logWire e).slot = s.slot := rfl
@[simp] theorem logWire_sel (e : WireEvent) : (s.logWire e).sel = s.sel := rfl
@[simp] theorem logWire_via (e : WireEvent) : (s.logWire e).via = s.via := rfl

@[simp] theorem logAnswer_cfg (a : Answer) : (s.logAnswer a).cfg = s.cfg := rfl
@[simp] theorem logAnswer_now (a : Answer) : (s.logAnswer a).now = s.now := rfl
@[simp] theorem logAnswer_life (a : Answer) : (s.logAnswer a).life = s.life := rfl
@[simp] theorem logAnswer_session (a : Answer) : (s.logAnswer a).session = s.session := rfl
@[simp] theorem logAnswer_guard (a : Answer) : (s.logAnswer a).guard = s.guard := rfl
@[simp] theorem logAnswer_bus (a : Answer) : (s.logAnswer a).bus = s.bus := rfl
@[simp] theorem logAnswer_wire (a : Answer) : (s.logAnswer a).wire = s.wire := rfl
@[simp] theorem logAnswer_fault (a : Answer) : (s.logAnswer a).fault = s.fault := rfl
@[simp] theorem logAnswer_chs (a : Answer) : (s.logAnswer a).chs = s.chs := rfl
@[simp] theorem logAnswer_answers (a : Answer) : (s.logAnswer a).answers = s.answers ++ [a] := rfl
@[simp] theorem logAnswer_agenda (a : Answer) : (s.logAnswer a).agenda = s.agenda := rfl
@[simp] theorem logAnswer_draws (a : Answer) : (s.logAnswer a).draws = s.draws := rfl
@[simp] theorem logAnswer_slot (a : Answer) : (s.logAnswer a).slot = s.slot := rfl
@[simp] theorem logAnswer_sel (a : Answer) : (s.logAnswer a).sel = s.sel := rfl
@[simp] theorem logAnswer_via (a : Answer) : (s.logAnswer a).via = s.via := rfl

@[simp] theorem advance_cfg (d : Nat) : (s.advance d).cfg = s.cfg := rfl
@[simp] theorem advance_now (d : Nat) : (s.advance d).now = s.now + d := rfl
@[simp] theorem advance_life (d : Nat) : (s.advance d).life = s.life := rfl
@[simp] theorem advance_session (d : Nat) : (s.advance d).session = s.session := rfl
@[simp] theorem advance_guard (d : Nat) : (s.advance d).guard = s.guard := rfl
@[simp] theorem advance_bus (d : Nat) : (s.advance d).bus = s.bus := rfl
@[simp] theorem advance_wire (d : Nat) : (s.advance d).wire = s.wire := rfl
@[simp] theorem advance_fault (d : Nat) : (s.advance d).fault = s.fault := rfl
@[simp] theorem advance_chs (d : Nat) : (s.advance d).chs = s.chs := rfl
@[simp] theorem advance_answers (d : Nat) : (s.advance d).answers = s.answers := rfl
@[simp] theorem advance_agenda (d : Nat) : (s.advance d).agenda = s.agenda := rfl
@[simp] theorem advance_draws (d : Nat) : (s.advance d).draws = s.draws := rfl
@[simp] theorem advance_slot (d : Nat) : (s.advance d).slot = s.slot := rfl
@[simp] theorem advance_sel (d : Nat) : (s.advance d).sel = s.sel := rfl
@[simp] theorem advance_via (d : Nat) : (s.advance d).via = s.via := rfl

@[simp] theorem raiseFault_cfg (r : FaultReason) : (s.raiseFault r).cfg = s.cfg := rfl
@[simp] theorem raiseFault_now (r : FaultReason) : (s.raiseFault r).now = s.now := rfl
@[simp] theorem raiseFault_life (r : FaultReason) : (s.raiseFault r).life = s.life := rfl
@[simp] theorem raiseFault_session (r : FaultReason) : (s.raiseFault r).session = s.session := rfl
@[simp] theorem raiseFault_guard (r : FaultReason) : (s.raiseFault r).guard = s.guard := rfl
@[simp] theorem raiseFault_bus (r : FaultReason) : (s.raiseFault r).bus = s.bus := rfl
@[simp] theorem raiseFault_wire (r : FaultReason) : (s.raiseFault r).wire = s.wire := rfl
@[simp] theorem raiseFault_chs (r : FaultReason) : (s.raiseFault r).chs = s.chs := rfl
@[simp] theorem raiseFault_answers (r : FaultReason) : (s.raiseFault r).answers = s.answers := rfl
@[simp] theorem raiseFault_agenda (r : FaultReason) : (s.raiseFault r).agenda = s.agenda := rfl
@[simp] theorem raiseFault_draws (r : FaultReason) : (s.raiseFault r).draws = s.draws := rfl
@[simp] theorem raiseFault_slot (r : FaultReason) : (s.raiseFault r).slot = s.slot := rfl
@[simp] theorem raiseFault_sel (r : FaultReason) : (s.raiseFault r).sel = s.sel := rfl
@[simp] theorem raiseFault_via (r : FaultReason) : (s.raiseFault r).via = s.via := rfl

@[simp] theorem presentOn_cfg (c : Nat) (v : Via) : (s.presentOn c v).cfg = s.cfg := rfl
@[simp] theorem presentOn_now (c : Nat) (v : Via) : (s.presentOn c v).now = s.now := rfl
@[simp] theorem presentOn_life (c : Nat) (v : Via) : (s.presentOn c v).life = s.life := rfl
@[simp] theorem presentOn_session (c : Nat) (v : Via) : (s.presentOn c v).session = s.session := rfl
@[simp] theorem presentOn_guard (c : Nat) (v : Via) : (s.presentOn c v).guard = s.guard := rfl
@[simp] theorem presentOn_bus (c : Nat) (v : Via) : (s.presentOn c v).bus = s.bus := rfl
@[simp] theorem presentOn_wire (c : Nat) (v : Via) : (s.presentOn c v).wire = s.wire := rfl
@[simp] theorem presentOn_fault (c : Nat) (v : Via) : (s.presentOn c v).fault = s.fault := rfl
@[simp] theorem presentOn_chs (c : Nat) (v : Via) : (s.presentOn c v).chs = s.chs := rfl
@[simp] theorem presentOn_answers (c : Nat) (v : Via) : (s.presentOn c v).answers = s.answers := rfl
@[simp] theorem presentOn_agenda (c : Nat) (v : Via) : (s.presentOn c v).agenda = s.agenda := rfl
@[simp] theorem presentOn_draws (c : Nat) (v : Via) : (s.presentOn c v).draws = s.draws := rfl
@[simp] theorem presentOn_slot (c : Nat) (v : Via) : (s.presentOn c v).slot = s.slot := rfl
@[simp] theorem presentOn_sel (c : Nat) (v : Via) : (s.presentOn c v).sel = c := rfl
@[simp] theorem presentOn_via (c : Nat) (v : Via) : (s.presentOn c v).via = v := rfl

@[simp] theorem emptySlot_cfg : s.emptySlot.cfg = s.cfg := rfl
@[simp] theorem emptySlot_now : s.emptySlot.now = s.now := rfl
@[simp] theorem emptySlot_life : s.emptySlot.life = s.life := rfl
@[simp] theorem emptySlot_session : s.emptySlot.session = s.session := rfl
@[simp] theorem emptySlot_guard : s.emptySlot.guard = s.guard := rfl
@[simp] theorem emptySlot_bus : s.emptySlot.bus = s.bus := rfl
@[simp] theorem emptySlot_wire : s.emptySlot.wire = s.wire := rfl
@[simp] theorem emptySlot_fault : s.emptySlot.fault = s.fault := rfl
@[simp] theorem emptySlot_chs : s.emptySlot.chs = s.chs := rfl
@[simp] theorem emptySlot_answers : s.emptySlot.answers = s.answers := rfl
@[simp] theorem emptySlot_agenda : s.emptySlot.agenda = s.agenda := rfl
@[simp] theorem emptySlot_draws : s.emptySlot.draws = s.draws := rfl
@[simp] theorem emptySlot_slot : s.emptySlot.slot = none := rfl
@[simp] theorem emptySlot_sel : s.emptySlot.sel = s.sel := rfl
@[simp] theorem emptySlot_via : s.emptySlot.via = s.via := rfl

@[simp] theorem withAgenda_cfg (m : List Move) : (s.withAgenda m).cfg = s.cfg := rfl
@[simp] theorem withAgenda_now (m : List Move) : (s.withAgenda m).now = s.now := rfl
@[simp] theorem withAgenda_life (m : List Move) : (s.withAgenda m).life = s.life := rfl
@[simp] theorem withAgenda_session (m : List Move) : (s.withAgenda m).session = s.session := rfl
@[simp] theorem withAgenda_guard (m : List Move) : (s.withAgenda m).guard = s.guard := rfl
@[simp] theorem withAgenda_bus (m : List Move) : (s.withAgenda m).bus = s.bus := rfl
@[simp] theorem withAgenda_wire (m : List Move) : (s.withAgenda m).wire = s.wire := rfl
@[simp] theorem withAgenda_fault (m : List Move) : (s.withAgenda m).fault = s.fault := rfl
@[simp] theorem withAgenda_chs (m : List Move) : (s.withAgenda m).chs = s.chs := rfl
@[simp] theorem withAgenda_answers (m : List Move) : (s.withAgenda m).answers = s.answers := rfl
@[simp] theorem withAgenda_agenda (m : List Move) : (s.withAgenda m).agenda = m := rfl
@[simp] theorem withAgenda_draws (m : List Move) : (s.withAgenda m).draws = s.draws := rfl
@[simp] theorem withAgenda_slot (m : List Move) : (s.withAgenda m).slot = s.slot := rfl
@[simp] theorem withAgenda_sel (m : List Move) : (s.withAgenda m).sel = s.sel := rfl
@[simp] theorem withAgenda_via (m : List Move) : (s.withAgenda m).via = s.via := rfl

@[simp] theorem countDraw_cfg : s.countDraw.cfg = s.cfg := rfl
@[simp] theorem countDraw_now : s.countDraw.now = s.now := rfl
@[simp] theorem countDraw_life : s.countDraw.life = s.life := rfl
@[simp] theorem countDraw_session : s.countDraw.session = s.session := rfl
@[simp] theorem countDraw_guard : s.countDraw.guard = s.guard := rfl
@[simp] theorem countDraw_bus : s.countDraw.bus = s.bus := rfl
@[simp] theorem countDraw_wire : s.countDraw.wire = s.wire := rfl
@[simp] theorem countDraw_fault : s.countDraw.fault = s.fault := rfl
@[simp] theorem countDraw_chs : s.countDraw.chs = s.chs := rfl
@[simp] theorem countDraw_answers : s.countDraw.answers = s.answers := rfl
@[simp] theorem countDraw_agenda : s.countDraw.agenda = s.agenda := rfl
@[simp] theorem countDraw_draws : s.countDraw.draws = s.draws + 1 := rfl
@[simp] theorem countDraw_slot : s.countDraw.slot = s.slot := rfl
@[simp] theorem countDraw_sel : s.countDraw.sel = s.sel := rfl
@[simp] theorem countDraw_via : s.countDraw.via = s.via := rfl

/-- Raising a fault in a state without one records its reason (R214). -/
theorem raiseFault_first (r : FaultReason) (h : s.fault = none) : (s.raiseFault r).fault = some r := by
  simp [raiseFault, h]

/-- A set fault keeps its reason (R214). -/
theorem raiseFault_sticky (r r0 : FaultReason) (h : s.fault = some r0) : (s.raiseFault r).fault = some r0 := by
  simp [raiseFault, h]

/-- A channel reads back what was written to it. -/
theorem setCh_get_self {c : Nat} {k k' : Channel} (h : s.chs[c]? = some k') :
    (s.setCh c k).chs[c]? = some k := by
  simp [(List.getElem?_eq_some_iff.mp h).1]

/-- A write of one channel record leaves every other one alone. -/
theorem setCh_get_ne {c c' : Nat} (k : Channel) (h : c ≠ c') : (s.setCh c k).chs[c']? = s.chs[c']? := by
  simp [h]

/-- The record at `c'` after a write at `c`, either case. -/
theorem setCh_get {c : Nat} {k0 : Channel} (h : s.chs[c]? = some k0) (k : Channel) (c' : Nat) :
    (s.setCh c k).chs[c']? = if c = c' then some k else s.chs[c']? := by
  by_cases hc : c = c'
  · subst hc; rw [s.setCh_get_self h]; simp
  · simp [hc]

end Sys2Proof.Machine.State
end

