-- ==== Sys2Proof/Laws/Ops.lean ====
section
/-! SUPPORT. One lemma per shared operation that says everything the operation can do: arming, pop, fail, acceptance,
assembly, the channel, bus and time steps, exec, and a step. Proofs about runs cite these and never unfold the
operations. -/

namespace Sys2Proof.Machine

open State

/-! ### Arming, pop and fail -/

section Arm
variable (k : Channel) (now : Nat) (p : List MicroOp)

@[simp] theorem armedWith_op : (k.armedWith now p).op = k.op := rfl
@[simp] theorem armedWith_prog : (k.armedWith now p).prog = p := rfl
@[simp] theorem armedWith_deadline : (k.armedWith now p).deadline = armedDeadline now p k.deadline := rfl
@[simp] theorem armedWith_txpend : (k.armedWith now p).txpend = false := rfl
@[simp] theorem armedWith_rowbuf : (k.armedWith now p).rowbuf = k.rowbuf := rfl
@[simp] theorem armedWith_result : (k.armedWith now p).result = k.result := rfl
@[simp] theorem armedWith_text : (k.armedWith now p).text = k.text := rfl
@[simp] theorem armedWith_request : (k.armedWith now p).request = k.request := rfl

end Arm

@[simp] theorem armedDeadline_wait (now d old : Nat) (p : List MicroOp) :
    armedDeadline now (.wait d :: p) old = now + d := rfl

@[simp] theorem armedDeadline_acq (now b old : Nat) (p : List MicroOp) :
    armedDeadline now (.acq b :: p) old = now + b := rfl

/-- `pop(c)` on a channel that exists (R103). -/
theorem pop_eq {s : State} {c : Nat} {k : Channel} (h : s.chs[c]? = some k) :
    s.pop c = s.setCh c (k.armedWith s.now k.prog.tail) := by
  simp [pop, h]

/-- `fail(c, e)` on a channel that exists (R116). -/
theorem fail_eq {s : State} {c : Nat} {k : Channel} (h : s.chs[c]? = some k) (e : Result) :
    s.fail c e =
      (s.withGuard (s.guardWithout c)).setCh c (k.armedWith s.now (failTail s.cfg k.op e)) := by
  simp [fail, h]

/-! ### Results -/

/-- A returned result goes to its own channel, after the results that channel had, and to no other (R38). -/
@[simp] theorem logAnswer_resultsOf (s : State) (a : Answer) (c : Nat) :
    (s.logAnswer a).resultsOf c = s.resultsOf c ++ if a.ch = c then [a] else [] := by
  by_cases h : a.ch = c <;> simp [resultsOf, logAnswer, h]

/-! ### Halting -/

/-- Agents may step exactly when no fault is set and the block has not aborted (R100). -/
theorem halted?_eq_none {s : State} : s.halted? = none ↔ s.fault = none ∧ s.life ≠ .fatal := by
  unfold halted?
  cases s.fault <;> simp

/-- A set fault stops every agent under its reason (R214). -/
theorem halted?_fault {s : State} {r : FaultReason} (h : s.fault = some r) : s.halted? = some (.halted r) := by
  simp [halted?, h]

/-- An aborted block has no step (R222). -/
theorem halted?_fatal {s : State} (h : s.fault = none) (hl : s.life = .fatal) : s.halted? = some .aborted := by
  simp [halted?, h, hl]

/-! ### Instructions presented on a channel -/

/-- What an instruction does on an idle channel of a live block. -/
theorem onIdle_next {s : State} {k : Channel} (body : Channel → State) (hh : s.halted? = none)
    (hk : s.chs[s.sel]? = some k) (ho : k.op = none) : onIdle s body = .next (body k) := by
  simp [onIdle, hh, hk, ho]

/-- On a busy channel nothing happens (R66, R210). -/
theorem onIdle_busy {s : State} {k : Channel} (body : Channel → State) (hh : s.halted? = none)
    (hk : s.chs[s.sel]? = some k) (ho : k.op ≠ none) : onIdle s body = .next s := by
  have : k.op.isSome = true := Option.isSome_iff_ne_none.mpr ho
  simp [onIdle, hh, hk, this]

/-- On a channel that does not exist nothing happens. -/
theorem onIdle_missing {s : State} (body : Channel → State) (hh : s.halted? = none)
    (hk : s.chs[s.sel]? = none) : onIdle s body = .next s := by
  simp [onIdle, hh, hk]

/-- In a state without a step an instruction stops as the state does (R100). -/
theorem onIdle_halted {s : State} {f : Fault} (body : Channel → State) (hh : s.halted? = some f) :
    onIdle s body = .fault f := by
  simp [onIdle, hh]

/-- Everything an instruction can do: nothing, or its body on the idle channel it is presented on. -/
theorem onIdle_cases {s t : State} {body : Channel → State} (h : onIdle s body = .next t) :
    s.halted? = none ∧ (t = s ∨ ∃ k, s.chs[s.sel]? = some k ∧ k.op = none ∧ t = body k) := by
  unfold onIdle at h
  split at h
  · cases h
  · refine ⟨‹_›, ?_⟩
    split at h
    · cases h; exact .inl rfl
    · split at h
      · cases h; exact .inl rfl
      · cases h
        refine .inr ⟨_, ‹_›, ?_, rfl⟩
        exact Option.not_isSome_iff_eq_none.mp ‹_›

/-- What one instruction can do to a state: nothing, raise a fault, start an operation, or write the idle channel's
micro-program or row buffer. -/
inductive InstrEffect (s : State) : State → Prop
  | nothing : InstrEffect s s
  | fault (r : FaultReason) : InstrEffect s (s.raiseFault r)
  | init (k : Channel) (hk : s.chs[s.sel]? = some k) (ho : k.op = none) (hl : s.life = .uninit) :
      InstrEffect s ((accept s k { op := .init, text := [] }).withLife .initializing)
  | clear (k : Channel) (hk : s.chs[s.sel]? = some k) (ho : k.op = none) (hl : s.life = .ready) :
      InstrEffect s (accept s k { op := .clear, text := [] })
  | row (k : Channel) (row : BitVec 2) (text : List Byte) (hk : s.chs[s.sel]? = some k) (ho : k.op = none)
      (hl : s.life = .ready) :
      InstrEffect s (accept s { k with rowbuf := rowBytes s.cfg row text } { op := .writeRow row, text := text })
  | assembled (k : Channel) (p : List MicroOp) (hk : s.chs[s.sel]? = some k) (ho : k.op = none) :
      InstrEffect s (s.setCh s.sel { k with prog := k.prog ++ p })
  | buffer (k : Channel) (pos : Nat) (v : Byte) (rs : Mode) (hk : s.chs[s.sel]? = some k) (ho : k.op = none)
      (hp : pos + 4 ≤ 68) :
      InstrEffect s (s.setCh s.sel { k with rowbuf := writeAt k.rowbuf pos (byte4 s.cfg v rs) })

theorem assemble_cases {s t : State} {xfer : Cfg → List MicroOp} (h : assemble xfer s = .next t) :
    s.halted? = none ∧ InstrEffect s t := by
  obtain ⟨hh, rfl | ⟨k, hk, ho, rfl⟩⟩ := onIdle_cases h
  · exact ⟨hh, .nothing⟩
  · exact ⟨hh, .assembled k _ hk ho⟩

theorem writeRowbuf_cases {s t : State} {pos : Nat} {v : Cfg → Byte} {rs : Mode} (hp : pos + 4 ≤ 68)
    (h : writeRowbuf pos v rs s = .next t) : s.halted? = none ∧ InstrEffect s t := by
  obtain ⟨hh, rfl | ⟨k, hk, ho, rfl⟩⟩ := onIdle_cases h
  · exact ⟨hh, .nothing⟩
  · exact ⟨hh, .buffer k pos _ rs hk ho hp⟩

theorem refuseRequest_cases {s t : State} {r : FaultReason} (h : refuseRequest r s = .next t) :
    s.halted? = none ∧ InstrEffect s t := by
  obtain ⟨hh, rfl | ⟨k, -, -, rfl⟩⟩ := onIdle_cases h
  · exact ⟨hh, .nothing⟩
  · exact ⟨hh, .fault r⟩

/-- Everything exec can do. -/
theorem exec_cases {i : Instr} {s t : State} (h : exec i s = .next t) : s.halted? = none ∧ InstrEffect s t := by
  cases i with
  | init =>
    obtain ⟨hh, rfl | ⟨k, hk, ho, rfl⟩⟩ := onIdle_cases h
    · exact ⟨hh, .nothing⟩
    · refine ⟨hh, ?_⟩
      split
      · exact .init k hk ho ‹_›
      · exact .fault _
  | clear =>
    obtain ⟨hh, rfl | ⟨k, hk, ho, rfl⟩⟩ := onIdle_cases h
    · exact ⟨hh, .nothing⟩
    · refine ⟨hh, ?_⟩
      split
      · exact .clear k hk ho ‹_›
      · exact .fault _
  | writeRow row text =>
    obtain ⟨hh, rfl | ⟨k, hk, ho, rfl⟩⟩ := onIdle_cases h
    · exact ⟨hh, .nothing⟩
    · refine ⟨hh, ?_⟩
      split
      · split
        · exact .row k row text hk ho ‹_›
        · exact .fault _
      · exact .fault _
  | sendNibble n rs =>
    simp only [exec, execSendNibble] at h
    split at h
    · exact refuseRequest_cases h
    · exact assemble_cases h
  | sendByte v rs =>
    simp only [exec, execSendByte] at h
    split at h
    · exact refuseRequest_cases h
    · exact assemble_cases h
  | hdReset8 => exact assemble_cases h
  | hdSet4 => exact assemble_cases h
  | hdFunctionSet => exact assemble_cases h
  | hdDisplayOn => exact assemble_cases h
  | hdEntryMode => exact assemble_cases h
  | hdClear => exact assemble_cases h
  | hdSetDdramRow0 => exact writeRowbuf_cases (by omega) h
  | hdSetDdramRow1 => exact writeRowbuf_cases (by omega) h
  | hdWriteData d cell =>
    have hc := cell.isLt
    exact writeRowbuf_cases (pos := 4 + 4 * cell.toNat) (v := fun _ => d) (rs := .data) (by omega) h

/-! ### The agents -/

/-- Everything a channel's step can do, by the head of its micro-program (R104–R116). -/
inductive ChannelEffect (c : Nat) (s : State) (k : Channel) : State → Prop
  | openTaken (p) (hp : k.prog = .openBus :: p) : ChannelEffect c s k ((s.withSession .opened).pop c)
  | openFailed (p) (hp : k.prog = .openBus :: p) : ChannelEffect c s k (s.fail c .fatal)
  | granted (b p) (hp : k.prog = .acq b :: p) (hg : s.guard = none) :
      ChannelEffect c s k ((s.withGuard (some c)).pop c)
  | gaveUp (b p) (hp : k.prog = .acq b :: p) (hg : s.guard ≠ some c) (hd : k.deadline ≤ s.now) :
      ChannelEffect c s k (s.fail c .timedout)
  | issued (bytes) (hp : headBytes k = some bytes) (ht : k.txpend = false) (hg : s.guard = some c)
      (hb : s.bus = .idle) (hs : s.session = .opened) :
      ChannelEffect c s k ((s.withBus (.busy c bytes s.now)).setCh c { k with txpend := true })
  | waited (d p) (hp : k.prog = .wait d :: p) (hd : k.deadline ≤ s.now) : ChannelEffect c s k (s.pop c)
  | released (p) (hp : k.prog = .rel :: p) : ChannelEffect c s k ((s.withGuard none).pop c)
  | finished (r p) (hp : k.prog = .done r :: p) : ChannelEffect c s k (finish c k r s)

/-- Everything a channel's step can do. -/
theorem channelStep_cases {c : Nat} {pick : Pick} {s t : State} (h : channelStep c pick s = some t) :
    ∃ k : Channel, s.chs[c]? = some k ∧ k.op ≠ none ∧ ChannelEffect c s k t := by
  unfold channelStep at h
  split at h
  · cases h
  · rename_i k hk
    split at h
    · cases h
    · rename_i hop
      refine ⟨k, hk, by simpa using hop, ?_⟩
      split at h
      · cases h
      · rename_i p hp
        cases pick
        · cases h; exact .openTaken p hp
        · cases h; exact .openFailed p hp
      · rename_i b p hp
        cases pick
        · dsimp only at h
          split at h
          · cases h; exact .granted b p hp ‹_›
          · cases h
        · dsimp only at h
          split at h
          · rename_i hc
            cases h; exact .gaveUp b p hp hc.1 hc.2
          · cases h
      · rename_i bytes p hp
        unfold issueTx at h
        split at h
        · rename_i hc
          cases h
          exact .issued bytes (by simp [headBytes, hp]) hc.1 hc.2.1 hc.2.2.1 hc.2.2.2
        · cases h
      · rename_i p hp
        unfold issueTx at h
        split at h
        · rename_i hc
          cases h
          exact .issued k.rowbuf (by simp [headBytes, hp]) hc.1 hc.2.1 hc.2.2.1 hc.2.2.2
        · cases h
      · rename_i d p hp
        split at h
        · cases h; exact .waited d p hp ‹_›
        · cases h
      · rename_i p hp
        cases h; exact .released p hp
      · rename_i r p hp
        cases h; exact .finished r p hp

/-- The event a completion appends, and the state with it appended and the bus idle (R110). -/
def completed (s : State) (c : Nat) (bytes : List Byte) (t0 : Nat) (o : TxOutcome) (drawn : Nat) : State :=
  (s.logWire
      { ch := c, t0 := t0, t1 := s.now, sent := bytes,
        delivered := bytes.take (deliveredCount o bytes drawn), outcome := o }).withBus .idle

/-- Everything the bus agent's step can do (R110). -/
theorem busStep_cases {o : TxOutcome} {drawn : Nat} {s t : State} (h : busStep o drawn s = some t) :
    ∃ c bytes t0, s.bus = .busy c bytes t0 ∧ outcomeAllowed s o bytes t0 drawn = true ∧
      t = afterTx (completed s c bytes t0 o drawn) c o := by
  unfold busStep at h
  split at h
  · cases h
  · rename_i c bytes t0 hb
    split at h
    · cases h
      exact ⟨c, bytes, t0, hb, ‹_›, rfl⟩
    · cases h

/-- Everything the time agent's step can do (R101). -/
theorem timeStep_cases {d : Nat} {s t : State} (h : timeStep d s = some t) : 1 ≤ d ∧ t = s.advance d := by
  unfold timeStep at h
  split at h
  · rename_i hc
    cases h; exact ⟨hc.1, rfl⟩
  · cases h

/-- What one step does to the machine, the move once taken from where it stood: an instruction's effect, a channel's,
the bus agent's or the time agent's, or nothing. -/
inductive MachineEffect (s : State) : State → Prop
  | instr {t} (h : InstrEffect s t) : MachineEffect s t
  | channel (c : Nat) (k : Channel) {t} (hk : s.chs[c]? = some k) (ho : k.op ≠ none)
      (h : ChannelEffect c s k t) : MachineEffect s t
  | bus (c : Nat) (bytes : List Byte) (t0 : Nat) (o : TxOutcome) (drawn : Nat)
      (hb : s.bus = .busy c bytes t0) (ha : outcomeAllowed s o bytes t0 drawn = true) :
      MachineEffect s (afterTx (completed s c bytes t0 o drawn) c o)
  | time (d : Nat) (hd : 1 ≤ d) : MachineEffect s (s.advance d)

theorem SameMachine.refl (s : State) : SameMachine s s := ⟨rfl, rfl, rfl, rfl, rfl, rfl, rfl, rfl, rfl, rfl⟩

theorem SameMachine.trans {s t u : State} (h : SameMachine s t) (h' : SameMachine t u) : SameMachine s u := by
  obtain ⟨a1, a2, a3, a4, a5, a6, a7, a8, a9, a10⟩ := h
  obtain ⟨b1, b2, b3, b4, b5, b6, b7, b8, b9, b10⟩ := h'
  exact ⟨b1.trans a1, b2.trans a2, b3.trans a3, b4.trans a4, b5.trans a5, b6.trans a6, b7.trans a7, b8.trans a8,
    b9.trans a9, b10.trans a10⟩

/-- Halting depends on the machine alone. -/
theorem SameMachine.halted? {s t : State} (h : SameMachine s t) : t.halted? = s.halted? := by
  obtain ⟨-, -, hl, -, -, -, -, hf, -, -⟩ := h
  simp [State.halted?, hl, hf]

/-- Everything presenting an instruction can do. -/
theorem present_cases {via : Via} {sp : Space} {c : Nat} {bytes : List Byte} {s t : State}
    (h : present via sp c bytes s = .next t) :
    InstrEffect (s.presentOn c via) t := by
  unfold present at h
  split at h
  · exact (exec_cases h).2
  · exact (refuseRequest_cases h).2
  · cases h
  · cases h

theorem presentOn_same (s : State) (c : Nat) (v : Via) : SameMachine s (s.presentOn c v) :=
  ⟨rfl, rfl, rfl, rfl, rfl, rfl, rfl, rfl, rfl, rfl⟩

/-- Everything a move can do. -/
theorem perform_cases {m : Move} {s t : State} (h : perform m s = .next t) :
    ∃ u, SameMachine s u ∧ MachineEffect u t := by
  cases m with
  | issue c w text =>
    exact ⟨s.presentOn c .port, presentOn_same s c _, .instr (present_cases h)⟩
  | run c pick =>
    refine ⟨s, .refl s, ?_⟩
    simp only [perform, orPass] at h
    cases hs : channelStep c pick s with
    | none => simp [hs] at h; subst h; exact .instr .nothing
    | some u =>
      simp [hs] at h; subst h
      obtain ⟨k, hk, ho, he⟩ := channelStep_cases hs
      exact .channel c k hk ho he
  | complete o drawn =>
    refine ⟨s, .refl s, ?_⟩
    simp only [perform, orPass] at h
    cases hs : busStep o drawn s with
    | none => simp [hs] at h; subst h; exact .instr .nothing
    | some u =>
      simp [hs] at h; subst h
      obtain ⟨c, bytes, t0, hb, ha, rfl⟩ := busStep_cases hs
      exact .bus c bytes t0 o drawn hb ha
  | tick d =>
    refine ⟨s, .refl s, ?_⟩
    simp only [perform, orPass] at h
    cases hs : timeStep d s with
    | none => simp [hs] at h; subst h; exact .instr .nothing
    | some u =>
      simp [hs] at h; subst h
      obtain ⟨hd, rfl⟩ := timeStep_cases hs
      exact .time d hd

/-- Taking the next move changes only the model's own fields. -/
theorem nextMove_same (s : State) : SameMachine s (nextMove s).2 := by
  unfold nextMove
  split <;> exact ⟨rfl, rfl, rfl, rfl, rfl, rfl, rfl, rfl, rfl, rfl⟩

/-- Everything a step can do: it takes a move from where it stands, which changes only the model's own fields, and
then one agent moves. -/
theorem step_cases {s t : State} (h : step s = .next t) :
    cfgValid s.cfg = true ∧ s.halted? = none ∧ ∃ u, SameMachine s u ∧ MachineEffect u t := by
  unfold step at h
  split at h
  · rename_i hv
    split at h
    · cases h
    · rename_i hh
      refine ⟨hv, hh, ?_⟩
      unfold proceed at h
      split at h
      · rename_i p hp
        exact ⟨s.emptySlot.presentOn p.ch p.via, presentOn_same s.emptySlot _ _, .instr (present_cases h)⟩
      · obtain ⟨u, hu, he⟩ := perform_cases h
        exact ⟨u, (nextMove_same s).trans hu, he⟩
  · cases h

end Sys2Proof.Machine
end

