-- ==== Sys2Proof/Laws/Effects.lean ====
section
/-! SUPPORT. What pop and fail leave alone, and what the one move of a step can do to the trace and the bus, to the time,
to one channel's record and to its micro-program. -/

namespace Sys2Proof.Machine

open State

/-! ### Pop and fail leave alone -/

section Pop
variable (s : State) (c : Nat)

@[simp] theorem pop_cfg : (s.pop c).cfg = s.cfg := by unfold pop; split <;> rfl
@[simp] theorem pop_now : (s.pop c).now = s.now := by unfold pop; split <;> rfl
@[simp] theorem pop_life : (s.pop c).life = s.life := by unfold pop; split <;> rfl
@[simp] theorem pop_session : (s.pop c).session = s.session := by unfold pop; split <;> rfl
@[simp] theorem pop_guard : (s.pop c).guard = s.guard := by unfold pop; split <;> rfl
@[simp] theorem pop_bus : (s.pop c).bus = s.bus := by unfold pop; split <;> rfl
@[simp] theorem pop_wire : (s.pop c).wire = s.wire := by unfold pop; split <;> rfl
@[simp] theorem pop_fault : (s.pop c).fault = s.fault := by unfold pop; split <;> rfl
@[simp] theorem pop_answers : (s.pop c).answers = s.answers := by unfold pop; split <;> rfl

end Pop

section Fail
variable (s : State) (c : Nat) (e : Result)

@[simp] theorem fail_cfg : (s.fail c e).cfg = s.cfg := by unfold fail; split <;> rfl
@[simp] theorem fail_now : (s.fail c e).now = s.now := by unfold fail; split <;> rfl
@[simp] theorem fail_life : (s.fail c e).life = s.life := by unfold fail; split <;> rfl
@[simp] theorem fail_session : (s.fail c e).session = s.session := by unfold fail; split <;> rfl
@[simp] theorem fail_guard : (s.fail c e).guard = s.guardWithout c := by unfold fail; split <;> rfl
@[simp] theorem fail_bus : (s.fail c e).bus = s.bus := by unfold fail; split <;> rfl
@[simp] theorem fail_wire : (s.fail c e).wire = s.wire := by unfold fail; split <;> rfl
@[simp] theorem fail_fault : (s.fail c e).fault = s.fault := by unfold fail; split <;> rfl
@[simp] theorem fail_answers : (s.fail c e).answers = s.answers := by unfold fail; split <;> rfl

end Fail

/-- The event of a completion (R27, R110). -/
def completion (u : State) (c : Nat) (bytes : List Byte) (t0 : Nat) (o : TxOutcome) (drawn : Nat) : WireEvent where
  ch := c
  t0 := t0
  t1 := u.now
  sent := bytes
  delivered := bytes.take (deliveredCount o bytes drawn)
  outcome := o

section After
variable (u : State) (c : Nat) (bytes : List Byte) (t0 : Nat) (o : TxOutcome) (drawn : Nat)

/-- A completion leaves the bus idle (R110). -/
theorem afterTx_bus : (afterTx (completed u c bytes t0 o drawn) c o).bus = .idle := by
  cases o <;> simp [afterTx, completed]

/-- A completion appends its event (R110). -/
theorem afterTx_wire :
    (afterTx (completed u c bytes t0 o drawn) c o).wire = u.wire ++ [completion u c bytes t0 o drawn] := by
  cases o <;> simp [afterTx, completed, completion]

/-- A completion takes no time. -/
theorem afterTx_now : (afterTx (completed u c bytes t0 o drawn) c o).now = u.now := by
  cases o <;> simp [afterTx, completed]

/-- A completion leaves the configuration alone. -/
theorem afterTx_cfg : (afterTx (completed u c bytes t0 o drawn) c o).cfg = u.cfg := by
  cases o <;> simp [afterTx, completed]

end After

/-! ### The trace, the bus and the time -/

/-- The one move of a step leaves the trace and the bus alone; or issues the head transmission of the guard's holder; or
completes the transmission in flight. -/
theorem effect_wire {u t : State} (h : MachineEffect u t) :
    (t.wire = u.wire ∧ t.bus = u.bus) ∨
    (t.wire = u.wire ∧ u.bus = .idle ∧ t.now = u.now ∧
      ∃ (c : Nat) (k : Channel) (bytes : List Byte), u.chs[c]? = some k ∧ k.op ≠ none ∧ headBytes k = some bytes ∧
        u.guard = some c ∧ t.bus = .busy c bytes u.now) ∨
    (t.bus = .idle ∧ t.now = u.now ∧
      ∃ (c : Nat) (bytes : List Byte) (t0 : Nat) (o : TxOutcome) (drawn : Nat), u.bus = .busy c bytes t0 ∧
        outcomeAllowed u o bytes t0 drawn = true ∧ t.wire = u.wire ++ [completion u c bytes t0 o drawn]) := by
  cases h with
  | instr h => left; cases h <;> exact ⟨rfl, rfl⟩
  | channel c k hk ho h =>
    cases h with
    | issued bytes hp ht hg hb => right; left; exact ⟨rfl, hb, rfl, c, k, bytes, hk, ho, hp, hg, rfl⟩
    | finished => left; exact ⟨rfl, rfl⟩
    | _ => left; constructor <;> simp
  | bus c bytes t0 o drawn hb ha =>
    right; right
    exact ⟨afterTx_bus .., afterTx_now .., c, bytes, t0, o, drawn, hb, ha, afterTx_wire ..⟩
  | time d hd => left; exact ⟨rfl, rfl⟩

/-- The one move of a step never writes the configuration, never moves the time back, and moves it only alone. -/
theorem effect_time {u t : State} (h : MachineEffect u t) :
    t.cfg = u.cfg ∧ (t.now = u.now ∨ ∃ d, 1 ≤ d ∧ t = u.advance d) := by
  cases h with
  | instr h => cases h <;> exact ⟨rfl, .inl rfl⟩
  | channel c k hk ho h =>
    cases h with
    | issued => exact ⟨rfl, .inl rfl⟩
    | finished => exact ⟨rfl, .inl rfl⟩
    | _ => constructor <;> simp
  | bus c bytes t0 o drawn hb ha => exact ⟨afterTx_cfg .., .inl (afterTx_now ..)⟩
  | time d hd => exact ⟨rfl, .inr ⟨d, hd, rfl⟩⟩

/-! ### One channel's record -/

/-- A move that sets one record leaves every other one alone, and every record comes from one that was there. -/
theorem record_of_setCh {u v : State} {c c' : Nat} {k0 k1 k' : Channel} {P : Channel → Channel → Prop}
    (hP : ∀ k, P k k) (hv : v.chs = u.chs) (h0 : u.chs[c]? = some k0) (h1 : P k0 k1)
    (h : (v.setCh c k1).chs[c']? = some k') : ∃ k, u.chs[c']? = some k ∧ P k k' := by
  rw [v.setCh_get (by rw [hv]; exact h0)] at h
  split at h
  · rename_i hc
    subst hc
    cases h
    exact ⟨k0, h0, h1⟩
  · exact ⟨k', hv ▸ h, hP k'⟩

end Sys2Proof.Machine
end

