-- ==== Sys2Proof/Laws/PerInstr.lean ====
section
/-! SUPPORT. The family Encoding, stated of every instruction as syntax: its encoding is the one its row of the opcode
table gives. -/

namespace Sys2Proof.Laws.Encoding

/-- The first bytes of an instruction as one number, numbered as the opcode table numbers a row's bits: bit 0 is the
least significant bit of the first byte. -/
def tableWord (i : Instr) : Nat :=
  match i.space, encode i with
  | .byte, v :: rs :: _ => v.toNat + 256 * rs.toNat
  | .request, w :: _ => w.toNat
  | .nibble, w :: _ => w.toNat
  | _, _ => 0

/-- How many bits the opcode table gives the row (R74, R78). -/
def rowBits (i : Instr) : Nat :=
  match i.space with
  | .request => 8
  | .nibble => 5
  | .byte => 9

/-- The row's mask in the opcode table. -/
def rowMask : Instr → Nat
  | .init => 0xff
  | .clear => 0xff
  | .writeRow _ _ => 0xf7
  | .sendNibble _ _ => 0xff
  | .sendByte _ _ => 0xff
  | .hdReset8 => 0x1f
  | .hdSet4 => 0x1f
  | .hdFunctionSet => 0x1ff
  | .hdDisplayOn => 0x1ff
  | .hdEntryMode => 0x1ff
  | .hdClear => 0x1ff
  | .hdSetDdramRow0 => 0x1ff
  | .hdSetDdramRow1 => 0x1ff
  | .hdWriteData _ _ => 0x100

/-- The row's match in the opcode table. -/
def rowMatch : Instr → Nat
  | .init => 0x1
  | .clear => 0x2
  | .writeRow _ _ => 0x3
  | .sendNibble _ _ => 0x4
  | .sendByte _ _ => 0x5
  | .hdReset8 => 0x3
  | .hdSet4 => 0x2
  | .hdFunctionSet => 0x28
  | .hdDisplayOn => 0xc
  | .hdEntryMode => 0x6
  | .hdClear => 0x1
  | .hdSetDdramRow0 => 0x80
  | .hdSetDdramRow1 => 0xc0
  | .hdWriteData _ _ => 0x100

/-- A well-formed instruction is encoded in the row's bits, and matches the row. -/
def Statement (i : Instr) : Prop :=
  i.wf = true → tableWord i < 2 ^ rowBits i ∧ tableWord i &&& rowMask i = rowMatch i

theorem init : Statement .init := fun _ => by decide

theorem clear : Statement .clear := fun _ => by decide

theorem writeRow (row : BitVec 2) (text : List Byte) : Statement (.writeRow row text) := by
  have h : ∀ r : BitVec 2, rowInRange r = true →
      (0x03#8 ||| (r.setWidth 8 <<< 3)).toNat < 2 ^ 8 ∧ (0x03#8 ||| (r.setWidth 8 <<< 3)).toNat &&& 0xf7 = 0x3 := by
    decide
  exact h row

theorem sendNibble (n : Byte) (rs : Mode) : Statement (.sendNibble n rs) := fun _ => by
  show (0x04#8).toNat < 2 ^ 8 ∧ (0x04#8).toNat &&& 0xff = 0x4
  decide

theorem sendByte (v : Byte) (rs : Mode) : Statement (.sendByte v rs) := fun _ => by
  show (0x05#8).toNat < 2 ^ 8 ∧ (0x05#8).toNat &&& 0xff = 0x5
  decide

theorem hdReset8 : Statement .hdReset8 := fun _ => by decide

theorem hdSet4 : Statement .hdSet4 := fun _ => by decide

theorem hdFunctionSet : Statement .hdFunctionSet := fun _ => by decide

theorem hdDisplayOn : Statement .hdDisplayOn := fun _ => by decide

theorem hdEntryMode : Statement .hdEntryMode := fun _ => by decide

theorem hdClear : Statement .hdClear := fun _ => by decide

theorem hdSetDdramRow0 : Statement .hdSetDdramRow0 := fun _ => by decide

theorem hdSetDdramRow1 : Statement .hdSetDdramRow1 := fun _ => by decide

theorem hdWriteData (d : Byte) (cell : BitVec 4) : Statement (.hdWriteData d cell) := by
  have h : ∀ b : Byte, b.toNat + 256 * (0x01#8).toNat < 2 ^ 9 ∧ (b.toNat + 256 * (0x01#8).toNat) &&& 0x100 = 0x100 := by
    decide
  exact fun _ => h d

end Sys2Proof.Laws.Encoding
end

