-- ==== Sys2Proof/Tests/Slice0.lean ====
section
/-! SUPPORT. The model's own tests: ill-formed terms, decoding of words written out from the spec's encodings, the
vectors of spec/95_test_vectors.md that one operation or one step shows, and a witness for the hypotheses of every
statement that has some. -/

namespace Sys2Proof.Tests

open Sys2Proof.Machine

/-! ### Small states -/

/-- The state an outcome goes on in. -/
def after : Host.Outcome State Fault Refusal → Option State
  | .next t => some t
  | .fault _ => none
  | .refused _ => none

/-- One channel, R6's defaults. -/
def oneChannel : Cfg := { Cfg.default with nreq := 1 }

/-- Two channels and the byte send of the original code (R135). -/
def nonAtomic : Cfg := { Cfg.default with sendByteAtomic := false }

/-- An idle block of one channel after a successful INIT. -/
def ready : State := { State.resetOf oneChannel with life := .ready, session := .opened, now := 108050 }

/-- The same with the byte send of the original code. -/
def readyNonAtomic : State := { State.resetOf nonAtomic with life := .ready, session := .opened, now := 108050 }

/-- An idle block in which instructions are presented from inside. -/
def inside : State := { State.resetOf oneChannel with via := .internal }

/-- The first channel of an outcome's next state. -/
def first (o : Host.Outcome State Fault Refusal) : Option Channel := (after o).bind (fun t => t.chs[0]?)

/-- The channel record of a running operation. -/
def running (op : Op) (prog : List MicroOp) (deadline : Nat) (txpend : Bool) : Channel where
  op := some op
  prog := prog
  deadline := deadline
  txpend := txpend
  rowbuf := List.replicate 68 0x00#8
  result := none
  text := []

/-- A block of one channel that is busy with `k`, the guard and the bus as given. -/
def busyWith (k : Channel) (guard : Option Nat) (bus : Bus) (agenda : List Move) : State :=
  { ready with chs := [k], guard := guard, bus := bus, agenda := agenda }

/-! ### WellFormed: one ill-formed term for each check -/

theorem test_row_two_is_ill_formed : (Instr.writeRow 2#2 []).wf = false := by decide
theorem test_row_three_is_ill_formed : (Instr.writeRow 3#2 [0x41#8]).wf = false := by decide
theorem test_row_one_is_well_formed : (Instr.writeRow 1#2 []).wf = true := by decide

/-! ### Decoding: one word for every row of the opcode table, its bits written out from R74, R75, R78 and R79 -/

theorem test_decode_init : decode .request [0b00000001#8] = .instr .init := by decide
theorem test_decode_clear : decode .request [0b00000010#8] = .instr .clear := by decide
theorem test_decode_write_row_0 :
    decode .request [0b00000011#8, 0x48#8, 0x69#8] = .instr (.writeRow 0#2 [0x48#8, 0x69#8]) := by decide
theorem test_decode_write_row_1 : decode .request [0b00001011#8] = .instr (.writeRow 1#2 []) := by decide
theorem test_decode_send_nibble :
    decode .request [0b00000100#8, 0x30#8, 0x00#8] = .instr (.sendNibble 0x30#8 .command) := by decide
theorem test_decode_send_byte :
    decode .request [0b00000101#8, 0x28#8, 0x01#8] = .instr (.sendByte 0x28#8 .data) := by decide
theorem test_decode_hd_reset8 : decode .nibble [0b00011#8] = .instr .hdReset8 := by decide
theorem test_decode_hd_set4 : decode .nibble [0b00010#8] = .instr .hdSet4 := by decide
theorem test_decode_hd_function_set : decodeTableWord 9 0b000101000 = some .hdFunctionSet := by decide
theorem test_decode_hd_display_on : decodeTableWord 9 0b000001100 = some .hdDisplayOn := by decide
theorem test_decode_hd_entry_mode : decodeTableWord 9 0b000000110 = some .hdEntryMode := by decide
theorem test_decode_hd_clear : decodeTableWord 9 0b000000001 = some .hdClear := by decide
theorem test_decode_hd_set_ddram_row0 : decodeTableWord 9 0b010000000 = some .hdSetDdramRow0 := by decide
theorem test_decode_hd_set_ddram_row1 : decodeTableWord 9 0b011000000 = some .hdSetDdramRow1 := by decide
theorem test_decode_hd_write_data : decodeTableWord 9 0b101001000 = some (.hdWriteData 0x48#8 0#4) := by decide
theorem test_decode_table_nibble : decodeTableWord 5 0b00011 = some .hdReset8 := by decide

/-- V10: the words the port refuses, each with the reason listed there. -/
theorem test_port_refuses :
    [0x00#8, 0x06#8, 0x07#8, 0x09#8, 0x0A#8, 0x11#8, 0x14#8, 0x23#8, 0x43#8, 0x7B#8].all
      (fun w => decode .request [w] = .reject (.port .badRequest)) = true ∧
    [0x13#8, 0x1B#8].all (fun w => decode .request [w] = .reject (.port .badRow)) = true ∧
    [0x81#8, 0xFF#8].all (fun w => decode .request [w] = .reject (.port .isrContext)) = true := by decide

/-- R79: a code that is no row of the table is rejected. -/
theorem test_codes_outside_the_table :
    decode .nibble [0b00100#8] = .reject .noSuchCommand ∧ decode .byte [0x81#8, 0x00#8] = .reject .noSuchCommand ∧
    decode .byte [0x28#8, 0x02#8] = .reject .noSuchCommand ∧ decode .request [] = .reject .truncated := by decide

/-! ### Encodings: the wire bytes of R79 and R190's example -/

theorem test_packet_of_reset_nibble : nib Cfg.default 0x30#8 .command = [0x3C#8, 0x38#8] := by decide
theorem test_bytes_of_capital_h : byte4 Cfg.default 0x48#8 .data = [0x4D#8, 0x49#8, 0x8D#8, 0x89#8] := by decide

/-- R83 on R190's example. -/
theorem test_decode_wire_h : decodeWireBytes [0x4D#8, 0x49#8, 0x8D#8, 0x89#8] = [(.data, 0x48#8)] := by decide

/-- R80: a pair that is no NibblePacket is nothing the block transmits. -/
theorem test_no_transmission :
    decodeTransmission 1#1 [0x3C#8, 0x3C#8] = none ∧ decodeTransmission 1#1 [0x3C#8, 0x38#8] = some (.packet .command 0x30#8) := by
  decide

/-! ### Instructions: one state each -/

/-- V70: 48 micro-operations, the first OPEN, in life INITIALIZING. -/
theorem test_init_program :
    ((first (execInit (State.resetOf oneChannel))).map (fun k => (k.prog.length, k.prog.head?))) =
      some (48, some .openBus) := by decide

/-- V70: 56 micro-operations in the other form. -/
theorem test_init_program_non_atomic :
    ((first (execInit (State.resetOf nonAtomic))).map (fun k => k.prog.length)) = some 56 := by decide

/-- V60: the atomic CLEAR, its budget armed at 108050. -/
theorem test_clear_program :
    ((first (execClear ready)).map (fun k => (k.deadline, k.prog))) =
      some (208050,
        [.acq 100000, .tx [0x0C#8, 0x08#8], .wait 50, .tx [0x1C#8, 0x18#8], .wait 50, .wait 2000, .rel, .done .ok]) := by
  decide

/-- V12: CLEAR before INIT raises NOT_READY. -/
theorem test_clear_not_ready :
    ((after (execClear State.reset)).map (fun t => (t.fault, statusByte t))) = some (some .notReady, 0x20#8) := by decide

/-- V43: the request that is accepted, with its text (R38), and the first 20 bytes of row 1, "Bye". -/
theorem test_write_row_bytes :
    ((first (execWriteRow 1#2 [0x42#8, 0x79#8, 0x65#8] ready)).map (fun k => (k.request, k.rowbuf.take 20))) =
      some (some ⟨.writeRow 1#2, [0x42#8, 0x79#8, 0x65#8]⟩,
        [0xCC#8, 0xC8#8, 0x0C#8, 0x08#8, 0x4D#8, 0x49#8, 0x2D#8, 0x29#8, 0x7D#8, 0x79#8, 0x9D#8, 0x99#8, 0x6D#8,
        0x69#8, 0x5D#8, 0x59#8, 0x2D#8, 0x29#8, 0x0D#8, 0x09#8]) := by decide

/-- V41: the text is cut at its zero byte; nothing of `43 44` is sent. -/
theorem test_write_row_cut_at_zero :
    ((first (execWriteRow 0#2 [0x41#8, 0x42#8, 0x00#8, 0x43#8, 0x44#8] ready)).map (fun k => (k.rowbuf.drop 8).take 8)) =
      some [0x4D#8, 0x49#8, 0x2D#8, 0x29#8, 0x2D#8, 0x29#8, 0x0D#8, 0x09#8] := by decide

/-- V30. -/
theorem test_send_nibble_program :
    ((first (execSendNibble 0x30#8 .command inside)).map (fun k => k.prog)) =
      some [.acq 100000, .tx [0x3C#8, 0x38#8], .wait 50, .rel] := by decide

/-- V10, `0x04`. -/
theorem test_send_nibble_at_port :
    ((after (execSendNibble 0x30#8 .command ready)).map (fun t => t.fault)) = some (some .badRequest) := by decide

/-- V31. -/
theorem test_send_byte_program :
    ((first (execSendByte 0x28#8 .command inside)).map (fun k => k.prog)) =
      some [.acq 100000, .tx [0x2C#8, 0x28#8], .wait 50, .tx [0x8C#8, 0x88#8], .wait 50, .rel] := by decide

/-- V32. -/
theorem test_send_byte_program_non_atomic :
    ((first (execSendByte 0x28#8 .command { readyNonAtomic with via := .internal })).map (fun k => k.prog)) =
      some [.acq 100000, .tx [0x2C#8, 0x28#8], .wait 50, .rel, .acq 100000, .tx [0x8C#8, 0x88#8], .wait 50, .rel] := by
  decide

theorem test_hd_reset8 :
    ((first (execHdReset8 inside)).map (fun k => k.prog)) = some [.acq 100000, .tx [0x3C#8, 0x38#8], .wait 50, .rel] := by
  decide

theorem test_hd_set4 :
    ((first (execHdSet4 inside)).map (fun k => k.prog)) = some [.acq 100000, .tx [0x2C#8, 0x28#8], .wait 50, .rel] := by
  decide

theorem test_hd_function_set :
    ((first (execHdFunctionSet inside)).map (fun k => k.prog)) =
      some [.acq 100000, .tx [0x2C#8, 0x28#8], .wait 50, .tx [0x8C#8, 0x88#8], .wait 50, .rel] := by decide

theorem test_hd_display_on :
    ((first (execHdDisplayOn inside)).map (fun k => k.prog)) =
      some [.acq 100000, .tx [0x0C#8, 0x08#8], .wait 50, .tx [0xCC#8, 0xC8#8], .wait 50, .rel] := by decide

theorem test_hd_entry_mode :
    ((first (execHdEntryMode inside)).map (fun k => k.prog)) =
      some [.acq 100000, .tx [0x0C#8, 0x08#8], .wait 50, .tx [0x6C#8, 0x68#8], .wait 50, .rel] := by decide

theorem test_hd_clear :
    ((first (execHdClear inside)).map (fun k => k.prog)) =
      some [.acq 100000, .tx [0x0C#8, 0x08#8], .wait 50, .tx [0x1C#8, 0x18#8], .wait 50, .wait 2000, .rel] := by decide

theorem test_hd_set_ddram_row0 :
    ((first (execHdSetDdramRow0 inside)).map (fun k => k.rowbuf.take 5)) =
      some [0x8C#8, 0x88#8, 0x0C#8, 0x08#8, 0x00#8] := by decide

theorem test_hd_set_ddram_row1 :
    ((first (execHdSetDdramRow1 inside)).map (fun k => k.rowbuf.take 5)) =
      some [0xCC#8, 0xC8#8, 0x0C#8, 0x08#8, 0x00#8] := by decide

/-- R190: cell 15 is the last four bytes. -/
theorem test_hd_write_data_last_cell :
    ((first (execHdWriteData 0x48#8 15#4 inside)).map (fun k => (k.rowbuf.length, k.rowbuf.drop 63))) =
      some (68, [0x00#8, 0x4D#8, 0x49#8, 0x8D#8, 0x89#8]) := by decide

/-! ### Steps -/

/-- A table word placed after reset runs at once. -/
theorem test_step_runs_placed_init :
    ((after (step (State.reset.withFetchWord 8 0x01))).map (fun t => t.life)) = some .initializing := by decide

/-- V20: the grant; the new head is the row's TX, so the deadline stays. -/
theorem test_grant :
    ((after (step (busyWith (running (.writeRow 0#2) (writeRowProg oneChannel) 350000 false) none .idle
      [.run 0 .take]))).map (fun t => (t.guard, (t.chs[0]?).map (fun k => (k.deadline, k.prog.head?))))) =
      some (some 0, some (350000, some .txRow)) := by decide

/-- V22: a zero budget times out at once while another channel holds the guard. -/
theorem test_zero_budget_times_out :
    ((first (step (busyWith (running (.writeRow 0#2) [.acq 0, .txRow, .rel, .done .ok] 108050 false) (some 2) .idle
      [.run 0 .giveUp]))).map (fun k => k.prog)) = some [.done .timedout] := by decide

/-- V24 (a): the event, and the settle wait armed 50 after the completion. -/
theorem test_completion_ok :
    ((after (step (busyWith (running .init [.tx [0x3C#8, 0x38#8], .wait 50, .rel] 0 true) (some 0)
      (.busy 0 [0x3C#8, 0x38#8] 100000) [.complete .ok 0]))).map
        (fun t => (t.wire, (t.chs[0]?).map (fun k => k.deadline)))) =
      some ([⟨0, 100000, 108050, [0x3C#8, 0x38#8], [0x3C#8, 0x38#8], .ok⟩], some 108100) := by decide

/-- V24 (b): one byte delivered, the guard released, INIT's failure tail. -/
theorem test_completion_buserror :
    ((after (step (busyWith (running .init [.tx [0x3C#8, 0x38#8], .wait 50, .rel] 0 true) (some 0)
      (.busy 0 [0x3C#8, 0x38#8] 100000) [.complete .buserror 1]))).map
        (fun t => (t.wire, t.guard, (t.chs[0]?).map (fun k => k.prog)))) =
      some ([⟨0, 100000, 108050, [0x3C#8, 0x38#8], [0x3C#8], .buserror⟩], none, some [.done .fatal]) := by decide

/-- V24 (c): TIMEDOUT is not enabled before T_XFER is over. -/
theorem test_no_early_timeout :
    ((after (step (busyWith (running .init [.tx [0x3C#8, 0x38#8], .wait 50, .rel] 0 true) (some 0)
      (.busy 0 [0x3C#8, 0x38#8] 100000) [.complete .timedout 0]))).map (fun t => t.wire.length)) = some 0 := by decide

/-- V26: OPEN fails, then DONE(FATAL): the status byte is 0x03 with the session closed. -/
theorem test_init_aborts :
    ((after (step { busyWith (running .init [.done .fatal] 0 false) none .idle [.run 0 .take] with
      life := .initializing
      session := .closed })).map (fun t => (t.life, statusByte t, resultView t 0))) =
      some (.fatal, 0x03#8, 3#2) := by decide

/-- R38: a result is observed on its own channel, with the request it answers, and on no other. -/
theorem test_results_by_channel :
    ((after (step { readyNonAtomic with
        chs := [Channel.reset, { running (.writeRow 1#2) [.done .ok] 0 false with text := [0x42#8] }]
        answers := [⟨0, some ⟨.clear, []⟩, .timedout⟩]
        agenda := [.run 1 .take] })).map (fun t => t.observe.results)) =
      some [[⟨0, some ⟨.clear, []⟩, .timedout⟩], [⟨1, some ⟨.writeRow 1#2, [0x42#8]⟩, .ok⟩]] := by decide

/-! ### Witnesses: concrete states that meet the hypotheses of the statements -/

theorem witness_valid_configuration : cfgValid Cfg.default = true ∧ Cfg.default.backlight = 1#1 := by decide

theorem witness_bad_configurations :
    { Cfg.default with nreq := 0 }.nreq = 0 ∧ { Cfg.default with nibReset := 0x31#8 }.nibReset &&& 0x0F#8 ≠ 0#8 ∧
    { Cfg.default with nib4bit := 0x2F#8 }.nib4bit &&& 0x0F#8 ≠ 0#8 := by decide

theorem witness_idle_uninit :
    (State.resetOf oneChannel).idleAt (State.resetOf oneChannel).sel Channel.reset ∧
    (State.resetOf oneChannel).life = .uninit ∧ Channel.reset.prog = [] ∧ Channel.reset.rowbuf.length = 68 :=
  ⟨⟨rfl, by decide, rfl, rfl⟩, rfl, rfl, rfl⟩

theorem witness_idle_ready : ready.idleAt ready.sel Channel.reset ∧ ready.life = .ready ∧ ready.via = .port :=
  ⟨⟨rfl, by decide, rfl, rfl⟩, rfl, rfl⟩

theorem witness_idle_inside : inside.idleAt inside.sel Channel.reset ∧ inside.via = .internal :=
  ⟨⟨rfl, by decide, rfl, rfl⟩, rfl⟩

/-- The classes of R77 at the ends of their ranges. -/
theorem witness_request_words :
    (∀ w ∈ [0x80#8, 0xFF#8], w.getLsbD 7 = true) ∧
    (∀ w ∈ [0x20#8, 0x40#8, 0x7F#8], w.getLsbD 7 = false ∧ w.extractLsb' 5 2 ≠ 0#2) ∧
    (∀ w ∈ [0x00#8, 0x04#8, 0x1F#8], w.getLsbD 7 = false ∧ w.extractLsb' 5 2 = 0#2 ∧ w.extractLsb' 0 3 ≠ 1#3 ∧
      w.extractLsb' 0 3 ≠ 2#3 ∧ w.extractLsb' 0 3 ≠ 3#3) ∧
    (∀ w ∈ [0x13#8, 0x1B#8], w.getLsbD 7 = false ∧ w.extractLsb' 5 2 = 0#2 ∧ w.extractLsb' 0 3 = 3#3 ∧
      2 ≤ (w.extractLsb' 3 2).toNat) ∧
    (∀ w ∈ [0x09#8, 0x1A#8], w.getLsbD 7 = false ∧ w.extractLsb' 5 2 = 0#2 ∧
      (w.extractLsb' 0 3 = 1#3 ∨ w.extractLsb' 0 3 = 2#3) ∧ w.extractLsb' 3 2 ≠ 0#2) := by decide

theorem witness_forbidden_requests :
    ready.life ≠ .uninit ∧ (State.resetOf oneChannel).life ≠ .ready ∧ 2 ≤ (2#2 : BitVec 2).toNat := by decide

/-- Cells at both ends, and texts of both lengths (R151, R155). -/
theorem witness_texts :
    (∀ b ∈ [0x41#8, 0x42#8], b ≠ 0#8) ∧ (cutText [0x41#8, 0x00#8, 0x42#8])[0]? = some 0x41#8 ∧
    (cutText [0x41#8, 0x00#8, 0x42#8]).length = 1 ∧ (cutText (List.replicate 15 0x41#8)).length < 16 ∧
    16 ≤ (cutText (List.replicate 16 0x41#8)).length := by decide

theorem witness_busy_channel :
    (busyWith (running .clear [.done .ok] 0 false) none .idle []).busyAt
      (busyWith (running .clear [.done .ok] 0 false) none .idle []).sel (running .clear [.done .ok] 0 false) :=
  ⟨rfl, by decide⟩

theorem witness_missing_channel : { ready with sel := 7 }.chs[7]? = none := by decide

theorem witness_decoded : decode .byte [0x48#8, 0x01#8, 0x0F#8] = .instr (.hdWriteData 0x48#8 15#4) := by decide

theorem witness_placed :
    { ready with slot := some (placedWord ready 9 0x148) }.slot = some (placedWord ready 9 0x148) ∧
    decode (placedWord ready 9 0x148).space (placedWord ready 9 0x148).bytes = .instr (.hdWriteData 0x48#8 0#4) ∧
    cfgValid ready.cfg = true := by decide

theorem witness_halted :
    { ready with fault := some .badRow }.fault = some .badRow ∧ { ready with life := .fatal }.life = .fatal := by decide

/-- A state that takes the one move on its agenda. -/
theorem takes_of (s : State) (m : Move) (hv : cfgValid s.cfg = true) (hf : s.fault = none) (hl : s.life ≠ .fatal)
    (hs : s.slot = none) (ha : s.agenda = [m]) : s.takes m (s.withAgenda []) :=
  ⟨hv, hf, hl, hs, ha, rfl⟩

theorem witness_issue : { ready with agenda := [.issue 0 0x02#8 []] }.takes (.issue 0 0x02#8 []) ready :=
  takes_of _ _ (by decide) rfl (by decide) rfl rfl

/-- A busy state takes the one move on its agenda. -/
theorem takes_busy (k : Channel) (guard : Option Nat) (bus : Bus) (m : Move) :
    (busyWith k guard bus [m]).takes m ((busyWith k guard bus [m]).withAgenda []) :=
  takes_of _ _ (show cfgValid oneChannel = true by decide) rfl (show Life.ready ≠ Life.fatal by decide) rfl rfl

/-- Both picks of a channel at OPEN. -/
theorem witness_open (pick : Pick) :
    let s := busyWith (running .init [.openBus, .done .ok] 0 false) none .idle [.run 0 pick]
    s.takes (.run 0 pick) (s.withAgenda []) ∧
      (s.withAgenda []).busyAt 0 (running .init [.openBus, .done .ok] 0 false) :=
  ⟨takes_busy _ _ _ _, rfl, by decide⟩

/-- Both picks of a channel at ACQ, the guard free or held, the deadline reached (108050) or not. -/
theorem witness_acquire (pick : Pick) (guard : Option Nat) (deadline : Nat) :
    let s := busyWith (running .clear (clearProg oneChannel) deadline false) guard .idle [.run 0 pick]
    s.takes (.run 0 pick) (s.withAgenda []) ∧
      (s.withAgenda []).busyAt 0 (running .clear (clearProg oneChannel) deadline false) ∧
      (clearProg oneChannel).head? = some (.acq 100000) ∧ (s.withAgenda []).now = 108050 :=
  ⟨takes_busy _ _ _ _, ⟨rfl, by simp [running]⟩, by decide, rfl⟩

theorem witness_release :
    let s := busyWith (running .clear [.rel, .done .ok] 0 false) (some 0) .idle [.run 0 .take]
    s.takes (.run 0 .take) (s.withAgenda []) ∧ (s.withAgenda []).busyAt 0 (running .clear [.rel, .done .ok] 0 false) :=
  ⟨takes_busy _ _ _ _, rfl, by decide⟩

/-- A TX of a nibble and one of the row, with everything it needs. -/
theorem witness_transmit (head : MicroOp) :
    let s := busyWith (running (.writeRow 0#2) [head, .rel, .done .ok] 0 false) (some 0) .idle [.run 0 .take]
    s.takes (.run 0 .take) (s.withAgenda []) ∧
      (s.withAgenda []).busyAt 0 (running (.writeRow 0#2) [head, .rel, .done .ok] 0 false) ∧
      (s.withAgenda []).guard = some 0 ∧ (s.withAgenda []).bus = .idle ∧ (s.withAgenda []).session = .opened :=
  ⟨takes_busy _ _ _ _, ⟨rfl, by simp [running]⟩, rfl, rfl, rfl⟩

/-- A transmission in flight since 8050 meets T_XFER at 108050 exactly; one since 8051 does not. -/
theorem witness_completion (o : TxOutcome) (n t0 : Nat) :
    let s := busyWith (running .init [.tx [0x3C#8, 0x38#8], .wait 50, .rel] 0 true) (some 0)
      (.busy 0 [0x3C#8, 0x38#8] t0) [.complete o n]
    s.takes (.complete o n) (s.withAgenda []) ∧ (s.withAgenda []).bus = .busy 0 [0x3C#8, 0x38#8] t0 ∧
      8050 + oneChannel.tXfer = s.now ∧ s.now < 8051 + oneChannel.tXfer :=
  ⟨takes_busy _ _ _ _, rfl, by show 8050 + 100000 = 108050; rfl, by show 108050 < 8051 + 100000; decide⟩

theorem witness_completion_without_transmission :
    { ready with agenda := [.complete .ok 0] }.takes (.complete .ok 0) ready ∧ ready.bus = .idle :=
  ⟨takes_of _ _ (by decide) rfl (by decide) rfl rfl, rfl⟩

theorem witness_wait (deadline : Nat) :
    let s := busyWith (running .clear [.wait 2000, .done .ok] deadline false) none .idle [.run 0 .take]
    s.takes (.run 0 .take) (s.withAgenda []) ∧
      (s.withAgenda []).busyAt 0 (running .clear [.wait 2000, .done .ok] deadline false) :=
  ⟨takes_busy _ _ _ _, rfl, by simp [running]⟩

theorem witness_done (op : Op) (r : Result) :
    let s := busyWith (running op [.done r] 0 false) none .idle [.run 0 .take]
    s.takes (.run 0 .take) (s.withAgenda []) ∧ (s.withAgenda []).chs[0]? = some (running op [.done r] 0 false) ∧
      (running op [.done r] 0 false).op = some op :=
  ⟨takes_busy _ _ _ _, rfl, rfl⟩

theorem witness_tick :
    let s := busyWith (running .clear [.wait 2000, .done .ok] 0 false) none .idle [.tick 1]
    s.takes (.tick 1) (s.withAgenda []) ∧
      (∃ c k, (s.withAgenda []).busyAt c k) ∧ { ready with agenda := [.tick 1] }.takes (.tick 1) ready ∧
      ∀ k ∈ ready.chs, k.op = none :=
  ⟨takes_busy _ _ _ _, ⟨0, _, rfl, by decide⟩,
    takes_of _ _ (by decide) rfl (by decide) rfl rfl, by decide⟩

theorem witness_empty_agenda : cfgValid ready.cfg = true ∧ ready.fault = none ∧ ready.slot = none ∧ ready.agenda = [] := by
  decide

theorem witness_pop :
    let k := running .clear [.rel, .wait 2000, .done .ok] 0 false
    (busyWith k (some 0) .idle []).chs[0]? = some k ∧ k.prog = .rel :: [.wait 2000, .done .ok] := ⟨rfl, rfl⟩

theorem witness_failing (op : Op) :
    let k := running op [.tx [0x0C#8, 0x08#8], .wait 50, .rel] 0 true
    (busyWith k (some 0) .idle []).chs[0]? = some k ∧ k.op = some op := ⟨rfl, rfl⟩

/-! #### Invariants in the middle of a run -/

/-- An outcome that goes on, as an equation. -/
theorem next_of_after {o : Host.Outcome State Fault Refusal} (d : State) (h : (after o).isSome = true) :
    o = .next ((after o).getD d) := by
  cases o <;> first | rfl | cases h

/-- The invariant of a block of one channel, from facts about that channel. -/
theorem inv_of_one {s : State} {k : Channel} (hs : s.chs = [k]) (hn : s.cfg.nreq = 1) (hl : s.life = .ready)
    (ho : s.session = .opened) (hk : k.op = some .clear) (hb : k.rowbuf.length = 68)
    (hp : progOk s.cfg .clear (decide (s.guard = some 0)) true k.prog = true)
    (hg : s.guard = none ∨ s.guard = some 0)
    (hbus : (s.bus = .idle ∧ k.txpend = false) ∨
      ∃ bytes t0, s.bus = .busy 0 bytes t0 ∧ s.guard = some 0 ∧ k.txpend = true ∧ headBytes k = some bytes)
    (hw : ∀ e ∈ s.wire, e.outcome = .ok → e.delivered = e.sent) : Inv s := by
  have one : ∀ (c : Nat) (k' : Channel), s.chs[c]? = some k' → c = 0 ∧ k' = k := by
    intro c k' h
    rw [hs] at h
    cases c with
    | zero => exact ⟨rfl, by simpa using h.symm⟩
    | succ c => simp at h
  have at0 : s.chs[0]? = some k := by rw [hs]; rfl
  constructor
  · rw [hs, hn]; rfl
  · intro k' h; rw [hs] at h; simp at h; rw [h]; exact hb
  · intro c k' row h1 h2; rw [(one c k' h1).2, hk] at h2; cases h2
  · intro c h
    rcases hg with hg | hg <;> rw [hg] at h <;> cases h
    exact ⟨k, at0, by simp [hk]⟩
  · intro c k' op h1 h2
    obtain ⟨rfl, rfl⟩ := one c k' h1
    rw [hk] at h2; cases h2
    simpa [ho] using hp
  · intro c bytes t0 h
    rcases hbus with ⟨h1, -⟩ | ⟨b, t, h1, h2, h3, h4⟩
    · rw [h1] at h; cases h
    · rw [h1] at h; cases h; exact ⟨h2, k, at0, h3, h4⟩
  · intro c k' h1 h2
    obtain ⟨rfl, rfl⟩ := one c k' h1
    rcases hbus with ⟨-, h⟩ | ⟨b, t, h, -⟩
    · rw [h] at h2; cases h2
    · exact ⟨b, t, h⟩
  · intro c c' k' k'' h1 h2 _ _
    exact (one c k' h1).1.trans (one c' k'' h2).1.symm
  · rw [hl]
    constructor
    · rintro ⟨c, k', h1, h2⟩; rw [(one c k' h1).2, hk] at h2; cases h2
    · intro h; cases h
  · intro h; exact absurd hl h
  · rw [hl]; intro h; cases h
  · intro _; exact ho
  · exact hw

/-- The invariant of an idle block of one channel, before INIT or after it. -/
theorem inv_of_idle {s : State} {k : Channel} (hs : s.chs = [k]) (hn : s.cfg.nreq = 1) (hk : k.op = none)
    (ht : k.txpend = false) (hb : k.rowbuf.length = 68) (hg : s.guard = none) (hbus : s.bus = .idle)
    (hl : (s.life = .uninit ∧ s.session = .closed) ∨ (s.life = .ready ∧ s.session = .opened))
    (hw : ∀ e ∈ s.wire, e.outcome = .ok → e.delivered = e.sent) : Inv s := by
  have one : ∀ (c : Nat) (k' : Channel), s.chs[c]? = some k' → c = 0 ∧ k' = k := by
    intro c k' h
    rw [hs] at h
    cases c with
    | zero => exact ⟨rfl, by simpa using h.symm⟩
    | succ c => simp at h
  constructor
  · rw [hs, hn]; rfl
  · intro k' h; rw [hs] at h; simp at h; rw [h]; exact hb
  · intro c k' row h1 h2; rw [(one c k' h1).2, hk] at h2; cases h2
  · intro c h; rw [hg] at h; cases h
  · intro c k' op h1 h2; rw [(one c k' h1).2, hk] at h2; cases h2
  · intro c bytes t0 h; rw [hbus] at h; cases h
  · intro c k' h1 h2; rw [(one c k' h1).2, ht] at h2; cases h2
  · intro c c' k' k'' h1 h2 _ _
    exact (one c k' h1).1.trans (one c' k'' h2).1.symm
  · constructor
    · rintro ⟨c, k', h1, h2⟩; rw [(one c k' h1).2, hk] at h2; cases h2
    · intro h; rcases hl with ⟨hl, -⟩ | ⟨hl, -⟩ <;> rw [hl] at h <;> cases h
  · intro _ c k' h1 _; rw [(one c k' h1).2]; exact hk
  · intro h
    rcases hl with ⟨-, ho⟩ | ⟨hl, -⟩
    · exact ho
    · rw [hl] at h; cases h
  · intro h
    rcases hl with ⟨hl, -⟩ | ⟨-, ho⟩
    · rw [hl] at h; cases h
    · exact ho
  · exact hw

/-- A block about to be asked to run INIT. -/
def starting : State := (State.resetOf oneChannel).withAgenda [.issue 0 0x01#8 []]

theorem witness_starting :
    Inv starting ∧ InitTraced starting ∧ step starting = .next ((after (step starting)).getD starting) ∧
    ((after (step starting)).map (fun t => t.life)) = some .initializing := by
  refine ⟨inv_of_idle (k := Channel.reset) rfl rfl rfl rfl rfl rfl rfl (.inl ⟨rfl, rfl⟩) (by decide), ?_,
    next_of_after _ (by decide), by decide⟩
  refine ⟨fun _ => rfl, ?_, fun h => by cases h⟩
  intro c k h1 h2
  have h3 : [Channel.reset][c]? = some k := h1
  cases c with
  | zero => simp at h3; subst h3; cases h2
  | succ c => simp at h3

/-- The two transmissions of a CLEAR that went well (V60). -/
def clearWire : List WireEvent :=
  [⟨0, 108050, 108050, [0x0C#8, 0x08#8], [0x0C#8, 0x08#8], .ok⟩,
   ⟨0, 108100, 108100, [0x1C#8, 0x18#8], [0x1C#8, 0x18#8], .ok⟩]

/-- A CLEAR at its DONE (V60), about to take it. -/
def clearDone : State :=
  { busyWith (running .clear [.done .ok] 110150 false) none .idle [.run 0 .take] with now := 110150, wire := clearWire }

/-- A CLEAR with its second nibble in flight, about to complete. -/
def clearFlight : State :=
  { busyWith (running .clear [.tx [0x1C#8, 0x18#8], .wait 50, .wait 2000, .rel, .done .ok] 108100 true) (some 0)
      (.busy 0 [0x1C#8, 0x18#8] 108100) [.complete .ok 0] with
    now := 108100
    wire := clearWire.take 1 }

theorem witness_inv_done : Inv clearDone ∧ step clearDone = .next ((after (step clearDone)).getD clearDone) :=
  ⟨inv_of_one (k := running .clear [.done .ok] 110150 false) rfl rfl rfl rfl rfl rfl (by decide) (.inl rfl)
    (.inl ⟨rfl, rfl⟩) (by decide), next_of_after _ (by decide)⟩

theorem witness_inv_flight :
    Inv clearFlight ∧ step clearFlight = .next ((after (step clearFlight)).getD clearFlight) :=
  ⟨inv_of_one (k := running .clear [.tx [0x1C#8, 0x18#8], .wait 50, .wait 2000, .rel, .done .ok] 108100 true) rfl rfl rfl
    rfl rfl rfl (by decide) (.inr rfl) (.inr ⟨_, _, rfl, rfl, rfl, rfl⟩) (by decide), next_of_after _ (by decide)⟩

/-- Index facts about a two-element trace. -/
theorem two_events {e1 e2 x y : WireEvent} {i : Nat} (h1 : [e1, e2][i]? = some x) (h2 : [e1, e2][i + 1]? = some y) :
    x = e1 ∧ y = e2 := by
  match i with
  | 0 => simp at h1 h2; exact ⟨h1.symm, h2.symm⟩
  | i + 1 => simp at h2

theorem witness_trace_ordered : TraceOrdered clearDone := by
  constructor
  · decide
  · intro i e1 e2 h1 h2
    obtain ⟨rfl, rfl⟩ := two_events h1 h2
    decide
  · intro c bytes t0 h; cases h

theorem witness_settled : Settled clearDone := by
  constructor
  · intro i e1 e2 h1 h2 _
    obtain ⟨rfl, rfl⟩ := two_events h1 h2
    decide
  · intro c bytes t0 e h; cases h
  · intro e _ h _
    left
    have : e = ⟨0, 108100, 108100, [0x1C#8, 0x18#8], [0x1C#8, 0x18#8], .ok⟩ := by
      simpa [clearDone, clearWire, busyWith] using h.symm
    subst this
    decide

theorem witness_wire_shaped : WireShaped clearDone := by
  intro e h
  have : e = ⟨0, 108050, 108050, [0x0C#8, 0x08#8], [0x0C#8, 0x08#8], .ok⟩ ∨
      e = ⟨0, 108100, 108100, [0x1C#8, 0x18#8], [0x1C#8, 0x18#8], .ok⟩ := by
    simpa [clearDone, clearWire, busyWith] using h
  rcases this with rfl | rfl <;> exact ⟨by decide, List.prefix_refl _, by decide⟩

theorem witness_programs_fixed : ProgramsFixed clearDone := by
  intro c k op h1 h2
  have h3 : [running .clear [.done .ok] 110150 false][c]? = some k := h1
  cases c with
  | succ c => simp at h3
  | zero =>
    simp at h3
    subst h3
    cases h2
    exact .inl ⟨clearCore clearDone.cfg, rfl⟩

theorem witness_clear_timed : ClearTimed clearDone := by
  constructor
  · intro c k _ _ _ e he _
    exact (by decide : ∀ e ∈ clearDone.wire, e.t1 + clearDone.cfg.tClear ≤ clearDone.now) e he
  · intro c k rest h1 _ h2
    have h3 : [running .clear [.done .ok] 110150 false][c]? = some k := h1
    cases c with
    | succ c => simp at h3
    | zero => simp at h3; subst h3; cases h2

/-- The step of `clearDone` goes on and returns the CLEAR's result; with it, every hypothesis of the statements about a
step from the middle of a run. -/
theorem witness_clear_returns :
    Inv clearDone ∧ ProgramsFixed clearDone ∧ TraceOrdered clearDone ∧ Settled clearDone ∧ WireShaped clearDone ∧
    ClearTimed clearDone ∧
    ∃ t : State, step clearDone = .next t ∧ t.answers = clearDone.answers ++ [⟨0, some ⟨.clear, []⟩, .ok⟩] ∧
      ∃ k' : Channel, clearDone.chs[0]? = some (running .clear [.done .ok] 110150 false) ∧ t.chs[0]? = some k' :=
  ⟨witness_inv_done.1, witness_programs_fixed, witness_trace_ordered, witness_settled, witness_wire_shaped,
    witness_clear_timed, _, witness_inv_done.2, by decide, _, rfl, rfl⟩

/-- A state the block reaches by a step that starts INIT. -/
theorem witness_reachable : ∃ s : State, Reachable s ∧ s.life = .initializing := by
  refine ⟨(after (step ((State.resetOf oneChannel).withAgenda [.issue 0 0x01#8 []]))).getD State.reset, ?_, by decide⟩
  exact .step _ _ (.schedule _ [.issue 0 0x01#8 []] (.reset oneChannel (by decide)))
    (next_of_after _ (by decide))

theorem witness_invariant_at_reset : cfgValid oneChannel = true ∧ cfgValid Cfg.default = true := by decide

/-- A step with a transmission in flight goes on. -/
theorem witness_in_flight :
    Inv clearFlight ∧ clearFlight.bus = .busy 0 [0x1C#8, 0x18#8] 108100 ∧ ∃ t : State, step clearFlight = .next t :=
  ⟨witness_inv_flight.1, rfl, _, witness_inv_flight.2⟩

/-! #### A fair run -/

/-- A block of one channel whose row budget is zero. -/
def noBudget : Cfg := { oneChannel with bRow := 0 }

/-- Its channel in round `q`, at stage `r`: idle, at ACQ, at ACQ one microsecond later, at DONE. -/
def roundChannel (q r : Nat) : Channel where
  op := if r = 0 then none else some (.writeRow 0#2)
  prog :=
    match r with
    | 0 => []
    | 1 => writeRowProg noBudget
    | 2 => writeRowProg noBudget
    | _ => [.done .timedout]
  deadline := if r = 0 then q - 1 else q
  txpend := false
  rowbuf := rowBytes noBudget 0#2 []
  result := some .timedout
  text := []

/-- The block in round `q` at stage `r`: every row it is asked to write times out at the guard. -/
def round (q r : Nat) : State :=
  { State.resetOf noBudget with
    now := if r < 2 then q else q + 1
    life := .ready
    session := .opened
    chs := [roundChannel q r]
    answers := List.replicate q ⟨0, some ⟨.writeRow 0#2, []⟩, .timedout⟩ }

/-- The move of a stage. -/
def roundMove : Nat → Move
  | 0 => .issue 0 0x03#8 []
  | 1 => .tick 1
  | 2 => .run 0 .giveUp
  | _ => .run 0 .take

theorem round_next (q : Nat) :
    perform (roundMove 0) (round q 0) = .next (round q 1) ∧ perform (roundMove 1) (round q 1) = .next (round q 2) ∧
    perform (roundMove 2) (round q 2) = .next (round q 3) ∧
    perform (roundMove 3) (round q 3) = .next (round (q + 1) 0) := by
  have h2 : channelStep 0 .giveUp (round q 2) = some (round q 3) := by
    show (if (none : Option Nat) ≠ some 0 ∧ q ≤ q + 1 then some ((round q 2).fail 0 .timedout) else none) = _
    rw [if_pos ⟨by simp, by omega⟩]
    rfl
  refine ⟨rfl, rfl, ?_, ?_⟩
  · show orPass _ (channelStep 0 .giveUp (round q 2)) = _
    rw [h2]
    rfl
  have h : List.replicate (q + 1) (⟨0, some ⟨.writeRow 0#2, []⟩, .timedout⟩ : Answer) =
      List.replicate q ⟨0, some ⟨.writeRow 0#2, []⟩, .timedout⟩ ++ [⟨0, some ⟨.writeRow 0#2, []⟩, .timedout⟩] :=
    List.replicate_succ'
  simp only [round, h]
  rfl

/-- The run: round `n / 4`, stage `n % 4`. -/
def roundRun (n : Nat) : State := round (n / 4) (n % 4)

theorem round_enabled (q : Nat) :
    enabled (roundMove 0) (round q 0) = true ∧ enabled (roundMove 1) (round q 1) = true ∧
    enabled (roundMove 2) (round q 2) = true ∧ enabled (roundMove 3) (round q 3) = true := by
  have h2 : channelStep 0 .giveUp (round q 2) = some (round q 3) := by
    show (if (none : Option Nat) ≠ some 0 ∧ q ≤ q + 1 then some ((round q 2).fail 0 .timedout) else none) = _
    rw [if_pos ⟨by simp, by omega⟩]
    rfl
  refine ⟨rfl, rfl, ?_, rfl⟩
  show (true && (channelStep 0 .giveUp (round q 2)).isSome) = true
  rw [h2]
  rfl

theorem round_is_run : IsRun roundRun (fun n => roundMove (n % 4)) := by
  have h4 : ∀ n : Nat, n % 4 = 0 ∨ n % 4 = 1 ∨ n % 4 = 2 ∨ n % 4 = 3 := by omega
  constructor
  · intro n
    obtain ⟨e0, e1, e2, e3⟩ := round_enabled (n / 4)
    unfold roundRun
    rcases h4 n with h | h | h | h <;> simp only [h] <;> assumption
  · intro n
    obtain ⟨e0, e1, e2, e3⟩ := round_next (n / 4)
    unfold roundRun
    rcases h4 n with h | h | h | h
    · have a : (n + 1) / 4 = n / 4 := by omega
      have b : (n + 1) % 4 = 1 := by omega
      simp only [h, a, b]; exact e0
    · have a : (n + 1) / 4 = n / 4 := by omega
      have b : (n + 1) % 4 = 2 := by omega
      simp only [h, a, b]; exact e1
    · have a : (n + 1) / 4 = n / 4 := by omega
      have b : (n + 1) % 4 = 3 := by omega
      simp only [h, a, b]; exact e2
    · have a : (n + 1) / 4 = n / 4 + 1 := by omega
      have b : (n + 1) % 4 = 0 := by omega
      simp only [h, a, b]; exact e3

theorem round_is_fair : WeaklyFair roundRun (fun n => roundMove (n % 4)) := by
  have at4 : ∀ n r, r < 4 → (4 * n + r) % 4 = r ∧ (4 * n + r) / 4 = n := by omega
  constructor
  · intro c pick n h
    exfalso
    have hn := h (4 * n + 0) (by omega)
    unfold roundRun at hn
    rw [(at4 n 0 (by omega)).1, (at4 n 0 (by omega)).2] at hn
    have hc : channelStep c pick (round n 0) = none := by
      cases c with
      | zero => rfl
      | succ c => rfl
    simp [enabled, hc] at hn
  · intro n h
    exact absurd rfl (h n (le_refl n))
  · intro n _
    refine ⟨4 * n + 1, 1, by omega, ?_⟩
    show roundMove ((4 * n + 1) % 4) = _
    rw [(at4 n 1 (by omega)).1]
    rfl
  · intro bound
    refine ⟨4 * bound + 0, ?_⟩
    unfold roundRun
    rw [(at4 bound 0 (by omega)).1, (at4 bound 0 (by omega)).2]
    exact le_refl bound

/-- The run starts in a state that meets the invariant. -/
theorem round_inv : Inv (roundRun 0) :=
  inv_of_idle (k := roundChannel 0 0) rfl rfl rfl rfl (rowBytes_length ..) rfl rfl (.inr ⟨rfl, rfl⟩)
    (fun _ h => absurd h (by simp [roundRun, round, State.resetOf]))

/-- The hypotheses of the statement about acquisitions hold of this run at its second state. -/
theorem witness_fair_run :
    IsRun roundRun (fun n => roundMove (n % 4)) ∧ WeaklyFair roundRun (fun n => roundMove (n % 4)) ∧ Inv (roundRun 0) ∧
    (roundRun 1).busyAt 0 (roundChannel 0 1) ∧ (roundChannel 0 1).prog = .acq 0 :: [.txRow, .rel, .done .ok] :=
  ⟨round_is_run, round_is_fair, round_inv, ⟨rfl, by simp [roundChannel]⟩, rfl⟩

end Sys2Proof.Tests
end

section
/-! Scope (spec/00_scope.md): the configuration is checked before anything runs (R8), and from then on no step writes it
(R6). -/

namespace Sys2Proof.Machine

/-! ### The configuration is checked -/

/-- What is left of R8 once the field types are taken into account: a channel, and two nibbles with clear low bits. -/
theorem cfgValid_iff {cfg : Cfg} :
    cfgValid cfg = true ↔ cfg.nreq ≠ 0 ∧ cfg.nibReset &&& 0x0F#8 = 0#8 ∧ cfg.nib4bit &&& 0x0F#8 = 0#8 := by
  simp [cfgValid, Nat.one_le_iff_ne_zero, and_assoc]

/-- A configuration fails R8 exactly when one of those constraints fails. -/
theorem not_cfgValid_iff {cfg : Cfg} :
    ¬ cfgValid cfg = true ↔ cfg.nreq = 0 ∨ cfg.nibReset &&& 0x0F#8 ≠ 0#8 ∨ cfg.nib4bit &&& 0x0F#8 ≠ 0#8 := by
  rw [cfgValid_iff, not_and_or, not_and_or, not_not]

theorem powerOn_of_valid {cfg : Cfg} (h : cfgValid cfg = true) : powerOn cfg = .next (State.resetOf cfg) :=
  if_pos h

theorem powerOn_of_not_valid {cfg : Cfg} (h : ¬ cfgValid cfg = true) : powerOn cfg = .refused .badConfig :=
  if_neg h

theorem step_of_not_valid {s : State} (h : ¬ cfgValid s.cfg = true) : step s = .refused .badConfig :=
  if_neg h

/-- Settles O25: power-on and the step both test `cfgValid`, which is R8 beyond the field types. -/
theorem badConfigurationRefused : Obligations.BadConfigurationRefused := by
  unfold Obligations.BadConfigurationRefused
  intro cfg s
  constructor
  · intro hfails
    have hbad : ¬ cfgValid cfg = true := not_cfgValid_iff.mpr hfails
    refine ⟨powerOn_of_not_valid hbad, ?_⟩
    rintro rfl
    exact step_of_not_valid hbad
  · intro hreq hreset h4bit
    exact powerOn_of_valid (cfgValid_iff.mpr ⟨hreq, hreset, h4bit⟩)

/-! ### The configuration is kept -/

/-- A step leaves the configuration alone: taking the move changes only the model's own fields, and none of the agents'
effects writes `cfg`. -/
theorem step_cfg {s t : State} (h : step s = .next t) : t.cfg = s.cfg := by
  obtain ⟨-, -, u, ⟨hcfg, -⟩, heffect⟩ := step_cases h
  obtain ⟨hkeep, -⟩ := effect_time heffect
  exact hkeep.trans hcfg

/-- Settles O53, by the effects a step can have. -/
theorem configurationNeverWritten : Obligations.ConfigurationNeverWritten := by
  unfold Obligations.ConfigurationNeverWritten
  intro s t h
  exact step_cfg h

end Sys2Proof.Machine
end

section
/-! State (spec/10_state.md), the structural invariant (O41, O42). What it says is taken apart into what it says of one
channel's record and of the state the channels share; a move writes at most one record, so it is kept once that record
is in order, the other records see the same guard, bus, lifecycle and session, and the lifecycle moves as R24 allows. -/

namespace Sys2Proof.Machine

open State

/-! ### Steps and runs -/

/-- Two states that agree in the machine differ by the model's own fields. -/
theorem SameMachine.exists_eq {s u : State} (h : SameMachine s u) :
    ∃ agenda draws slot sel via,
      u = { s with agenda := agenda, draws := draws, slot := slot, sel := sel, via := via } := by
  obtain ⟨hcfg, hnow, hlife, hsession, hguard, hbus, hwire, hfault, hchs, hanswers⟩ := h
  refine ⟨u.agenda, u.draws, u.slot, u.sel, u.via, ?_⟩
  rw [← hcfg, ← hnow, ← hlife, ← hsession, ← hguard, ← hbus, ← hwire, ← hfault, ← hchs, ← hanswers]

/-- A property of the machine that every agent's move keeps is kept by every step. -/
theorem step_keeps {P : State → Prop} (hown : ∀ s u, SameMachine s u → P s → P u)
    (hmove : ∀ u t, MachineEffect u t → P u → P t) {s t : State} (hs : P s) (h : step s = .next t) : P t := by
  obtain ⟨-, -, u, hsame, heffect⟩ := step_cases h
  exact hmove u t heffect (hown s u hsame hs)

/-- A property of the machine that holds at reset and that every step keeps holds of every reachable state. -/
theorem reachable_induction {P : State → Prop} (hreset : ∀ cfg, P (State.resetOf cfg))
    (hown : ∀ s u, SameMachine s u → P s → P u) (hstep : ∀ s t, P s → Machine.step s = .next t → P t) {s : State}
    (h : Reachable s) : P s := by
  induction h with
  | reset cfg _ => exact hreset cfg
  | schedule s moves _ ih => exact hown s _ ⟨rfl, rfl, rfl, rfl, rfl, rfl, rfl, rfl, rfl, rfl⟩ ih
  | step s t _ hs ih => exact hstep s t ih hs

/-! ### The invariant of one channel's record -/

/-- What the structural invariant says of channel `c` with record `k`. -/
structure ChannelInv (s : State) (c : Nat) (k : Channel) : Prop where
  buffer : k.rowbuf.length = 68
  row : ∀ row, k.op = some (.writeRow row) → k.rowbuf = rowBytes s.cfg row k.text
  holder : s.guard = some c → k.op ≠ none
  prog : ∀ op, k.op = some op →
    progOk s.cfg op (decide (s.guard = some c)) (decide (s.session = .opened)) k.prog = true
  flight : ∀ bytes t0, s.bus = .busy c bytes t0 →
    s.guard = some c ∧ k.txpend = true ∧ headBytes k = some bytes
  pending : k.txpend = true → ∃ bytes t0, s.bus = .busy c bytes t0
  alone : s.life ≠ .ready → k.op ≠ some .init → k.op = none

section
variable {s t : State} {c : Nat} {k : Channel}

theorem Inv.channelInv (hi : Inv s) (hk : s.chs[c]? = some k) : ChannelInv s c k where
  buffer := hi.buffers k (List.mem_of_getElem? hk)
  row := fun row => hi.rows c k row hk
  holder := by
    intro hg
    obtain ⟨k', hk', ho⟩ := hi.holder c hg
    cases hk.symm.trans hk'
    exact ho
  prog := fun op => hi.progs c k op hk
  flight := by
    intro bytes t0 hb
    obtain ⟨hg, k', hk', htx, hbytes⟩ := hi.flight c bytes t0 hb
    cases hk.symm.trans hk'
    exact ⟨hg, htx, hbytes⟩
  pending := hi.pending c k hk
  alone := fun hl => hi.alone hl c k hk

/-- A channel's part depends on what the channel sees of the shared state, an idle channel's not even on the lifecycle
and the session. -/
theorem ChannelInv.frame (h : ChannelInv s c k) (hcfg : t.cfg = s.cfg)
    (hguard : t.guard = some c ↔ s.guard = some c)
    (hbus : ∀ bytes t0, t.bus = .busy c bytes t0 ↔ s.bus = .busy c bytes t0)
    (hlife : k.op = none ∨ t.life = s.life ∧ t.session = s.session) : ChannelInv t c k where
  buffer := h.buffer
  row := hcfg ▸ h.row
  holder := fun hg => h.holder (hguard.mp hg)
  prog := by
    intro op ho
    rcases hlife with hidle | ⟨-, hs⟩
    · cases hidle.symm.trans ho
    · simpa only [hcfg, hguard, hs] using h.prog op ho
  flight := by simpa only [hguard, hbus] using h.flight
  pending := by simpa only [hbus] using h.pending
  alone := by
    rcases hlife with hidle | ⟨hl, -⟩
    · exact fun _ _ => hidle
    · exact hl ▸ h.alone

/-- A channel that is given a micro-program, armed, and has no transmission in flight is in order when the program
is. -/
theorem ChannelInv.armedWith (h : ChannelInv s c k) (ho : k.op ≠ none) (hcfg : t.cfg = s.cfg)
    (hlife : t.life = s.life) (hbus : ∀ bytes t0, t.bus ≠ .busy c bytes t0) {p : List MicroOp} (now : Nat)
    (hp : ∀ op, k.op = some op →
      progOk s.cfg op (decide (t.guard = some c)) (decide (t.session = .opened)) p = true) :
    ChannelInv t c (k.armedWith now p) where
  buffer := h.buffer
  row := hcfg ▸ h.row
  holder := fun _ => ho
  prog := hcfg ▸ hp
  flight := fun bytes t0 hb => absurd hb (hbus bytes t0)
  pending := fun htx => by cases htx
  alone := hlife ▸ h.alone

/-- The transmission in flight is the head of its channel's micro-program (I2 of R37). -/
theorem Inv.not_in_flight (hi : Inv s) (hk : s.chs[c]? = some k) (hhead : headBytes k = none) (bytes : List Byte)
    (t0 : Nat) : s.bus ≠ .busy c bytes t0 := by
  intro hb
  obtain ⟨-, -, hbytes⟩ := (hi.channelInv hk).flight bytes t0 hb
  cases hhead.symm.trans hbytes

/-- An idle channel does not hold the guard (I1 of R37). -/
theorem Inv.idle_not_holder (hi : Inv s) (hk : s.chs[c]? = some k) (ho : k.op = none) : s.guard ≠ some c :=
  fun hg => (hi.channelInv hk).holder hg ho

/-- An idle channel has no transmission in flight (I1 and I2 of R37). -/
theorem Inv.idle_not_in_flight (hi : Inv s) (hk : s.chs[c]? = some k) (ho : k.op = none) (bytes : List Byte)
    (t0 : Nat) : s.bus ≠ .busy c bytes t0 := by
  intro hb
  obtain ⟨hg, -⟩ := hi.flight c bytes t0 hb
  exact hi.idle_not_holder hk ho hg

/-- While the guard is free nothing is in flight (I2 of R37). -/
theorem Inv.bus_idle_of_guard_free (hi : Inv s) (hg : s.guard = none) : s.bus = .idle := by
  cases hb : s.bus with
  | idle => rfl
  | busy c bytes t0 =>
    obtain ⟨hg', -⟩ := hi.flight c bytes t0 hb
    cases hg.symm.trans hg'

/-- INIT runs while the block is INITIALIZING (I4 of R37). -/
theorem Inv.initializing (hi : Inv s) (hk : s.chs[c]? = some k) (ho : k.op = some .init) : s.life = .initializing :=
  hi.init_life.mp ⟨c, k, hk, ho⟩

/-- While INIT runs every other channel is idle (I4 and I5 of R37). -/
theorem Inv.idle_beside_init {c' : Nat} {k' : Channel} (hi : Inv s) (hk : s.chs[c]? = some k)
    (ho : k.op = some .init) (hk' : s.chs[c']? = some k') (hne : c' ≠ c) : k'.op = none := by
  have hl := hi.initializing hk ho
  refine hi.alone (by simp [hl]) c' k' hk' fun ho' => ?_
  exact hne (hi.one_init c' c k' k hk' hk ho' ho)

/-- Before INIT every channel is idle (I4 and I5 of R37). -/
theorem Inv.idle_when_uninit (hi : Inv s) (hl : s.life = .uninit) (hk : s.chs[c]? = some k) : k.op = none := by
  refine hi.alone (by simp [hl]) c k hk fun ho => ?_
  cases hl.symm.trans (hi.initializing hk ho)

end

/-! ### A move that writes one record -/

/-- `t` is `s` with channel `c`'s record `k` replaced by `k1`, and no other channel sees the guard or the bus change. -/
structure WritesRecord (s t : State) (c : Nat) (k k1 : Channel) : Prop where
  cfg : t.cfg = s.cfg
  before : s.chs[c]? = some k
  chs : t.chs = s.chs.set c k1
  guard : ∀ c', c' ≠ c → (t.guard = some c' ↔ s.guard = some c')
  bus : ∀ c', c' ≠ c → ∀ bytes t0, t.bus = .busy c' bytes t0 ↔ s.bus = .busy c' bytes t0

/-- How the lifecycle and the session move with a write of record `k` to `k1` (R24, R25). -/
inductive LifeMove (s t : State) (k k1 : Channel) : Prop
  | kept (hl : t.life = s.life) (hs : t.session = s.session) (ho : k1.op = some .init ↔ k.op = some .init)
  | accepted (hl : s.life = .uninit) (hl' : t.life = .initializing) (hs : t.session = s.session)
      (ho : k1.op = some .init)
  | opened (hl : t.life = s.life) (hs : t.session = .opened) (ho : k.op = some .init) (ho' : k1.op = some .init)
  | ended (hl : t.life = .fatal ∨ t.life = .ready ∧ t.session = .opened) (ho : k.op = some .init) (ho' : k1.op = none)

/-- Channel `c` runs INIT. -/
def State.runsInit (s : State) (c : Nat) : Prop := ∃ k : Channel, s.chs[c]? = some k ∧ k.op = some .init

section
variable {s t : State} {c : Nat} {k k1 : Channel}

/-- A record after a write of one is the one written, or another channel's as it was. -/
theorem get_cases_of_set (hk : s.chs[c]? = some k) (hchs : t.chs = s.chs.set c k1) {c' : Nat} {k' : Channel}
    (h : t.chs[c']? = some k') : (c' = c ∧ k' = k1) ∨ (c' ≠ c ∧ s.chs[c']? = some k') := by
  rw [hchs, ← setCh_chs, s.setCh_get hk] at h
  split at h
  · rename_i hc
    exact .inl ⟨hc.symm, (Option.some.inj h).symm⟩
  · rename_i hc
    exact .inr ⟨fun h' => hc h'.symm, h⟩

theorem WritesRecord.get (hw : WritesRecord s t c k k1) (c' : Nat) :
    t.chs[c']? = if c = c' then some k1 else s.chs[c']? := by
  rw [hw.chs]
  exact s.setCh_get hw.before k1 c'

theorem WritesRecord.get_self (hw : WritesRecord s t c k k1) : t.chs[c]? = some k1 := by simp [hw.get]

theorem WritesRecord.get_cases (hw : WritesRecord s t c k k1) {c' : Nat} {k' : Channel} (h : t.chs[c']? = some k') :
    (c' = c ∧ k' = k1) ∨ (c' ≠ c ∧ s.chs[c']? = some k') := get_cases_of_set hw.before hw.chs h

theorem WritesRecord.runsInit_self (hw : WritesRecord s t c k k1) : t.runsInit c ↔ k1.op = some .init := by
  simp [runsInit, hw.get_self]

theorem WritesRecord.runsInit_other (hw : WritesRecord s t c k k1) {c' : Nat} (h : c' ≠ c) :
    t.runsInit c' ↔ s.runsInit c' := by
  simp [runsInit, hw.get, Ne.symm h]

theorem WritesRecord.ran_init (hw : WritesRecord s t c k k1) : s.runsInit c ↔ k.op = some .init := by
  simp [runsInit, hw.before]

/-- A channel that exists before the write, or is the one written, exists after it. -/
theorem WritesRecord.exists_get (hw : WritesRecord s t c k k1) {c' : Nat}
    (h : c' ≠ c → ∃ k' : Channel, s.chs[c']? = some k') : ∃ k' : Channel, t.chs[c']? = some k' := by
  by_cases hc : c' = c
  · exact ⟨k1, hc ▸ hw.get_self⟩
  · obtain ⟨k', hk'⟩ := h hc
    exact ⟨k', by rw [hw.get, if_neg (Ne.symm hc), hk']⟩

/-- After the write every channel has its part: the one written by itself, the others because they see nothing of it. -/
theorem Inv.channelInv_of_write (hi : Inv s) (hw : WritesRecord s t c k k1) (hl : LifeMove s t k k1)
    (hown : ChannelInv t c k1) {c' : Nat} {k' : Channel} (hk' : t.chs[c']? = some k') : ChannelInv t c' k' := by
  rcases hw.get_cases hk' with ⟨rfl, rfl⟩ | ⟨hne, hold⟩
  · exact hown
  · refine (hi.channelInv hold).frame hw.cfg (hw.guard c' hne) (hw.bus c' hne) ?_
    cases hl with
    | kept hl hs _ => exact .inr ⟨hl, hs⟩
    | accepted hl _ _ _ => exact .inl (hi.idle_when_uninit hl hold)
    | opened _ _ ho _ => exact .inl (hi.idle_beside_init hw.before ho hold hne)
    | ended _ ho _ => exact .inl (hi.idle_beside_init hw.before ho hold hne)

/-- INIT's channels after the write: just the one written, as INIT starts; none, as INIT ends; or those before it. -/
theorem Inv.runsInit_of_write (hi : Inv s) (hw : WritesRecord s t c k k1) (hl : LifeMove s t k k1) :
    (t.life = .initializing ∧ ∀ c', t.runsInit c' ↔ c' = c) ∨ (t.life ≠ .initializing ∧ ∀ c', ¬ t.runsInit c') ∨
      (t.life = s.life ∧ ∀ c', t.runsInit c' ↔ s.runsInit c') := by
  have same (ho : k1.op = some .init ↔ k.op = some .init) : ∀ c', t.runsInit c' ↔ s.runsInit c' := by
    intro c'
    by_cases hc : c' = c
    · rw [hc, hw.runsInit_self, hw.ran_init, ho]
    · exact hw.runsInit_other hc
  have only (hnone : ∀ c', c' ≠ c → ¬ s.runsInit c') : ∀ c', t.runsInit c' ↔ c' = c ∧ k1.op = some .init := by
    intro c'
    by_cases hc : c' = c
    · simp [hc, hw.runsInit_self]
    · simp [hc, hw.runsInit_other hc, hnone c' hc]
  cases hl with
  | kept hl _ ho => exact .inr (.inr ⟨hl, same ho⟩)
  | opened hl _ ho ho' => exact .inr (.inr ⟨hl, same (by simp [ho, ho'])⟩)
  | accepted hl hl' _ ho =>
    have hnone : ∀ c', c' ≠ c → ¬ s.runsInit c' := fun c' _ ⟨k', hk', h'⟩ => by
      cases h'.symm.trans (hi.idle_when_uninit hl hk')
    exact .inl ⟨hl', fun c' => (only hnone c').trans (and_iff_left ho)⟩
  | ended hl ho ho' =>
    have hnone : ∀ c', c' ≠ c → ¬ s.runsInit c' := fun c' hne ⟨k', hk', h'⟩ => by
      cases h'.symm.trans (hi.idle_beside_init hw.before ho hk' hne)
    refine .inr (.inl ⟨?_, fun c' => by simp [only hnone, ho']⟩)
    rcases hl with hl | ⟨hl, -⟩ <;> simp [hl]

/-- After the write at most one channel runs INIT, and one does just while the block is INITIALIZING (I4 of R37). -/
theorem Inv.init_of_write (hi : Inv s) (hw : WritesRecord s t c k k1) (hl : LifeMove s t k k1) :
    (∀ a b, t.runsInit a → t.runsInit b → a = b) ∧ ((∃ a, t.runsInit a) ↔ t.life = .initializing) := by
  rcases hi.runsInit_of_write hw hl with ⟨hl, hrun⟩ | ⟨hl, hrun⟩ | ⟨hl, hrun⟩
  · simp [hrun, hl]
  · simp [hrun, hl]
  · simp only [hrun, hl]
    refine ⟨?_, hi.init_life⟩
    rintro a b ⟨ka, hka, hoa⟩ ⟨kb, hkb, hob⟩
    exact hi.one_init a b ka kb hka hkb hoa hob

/-- After the write the session is closed before INIT and open in a READY block (R25). -/
theorem Inv.session_of_write (hi : Inv s) (hw : WritesRecord s t c k k1) (hl : LifeMove s t k k1) :
    (t.life = .uninit → t.session = .closed) ∧ (t.life = .ready → t.session = .opened) := by
  cases hl with
  | kept hl hs _ =>
    rw [hl, hs]
    exact ⟨hi.fresh, hi.ready_open⟩
  | accepted _ hl' _ _ => simp [hl']
  | opened hl hs ho _ => simp [hl, hs, hi.initializing hw.before ho]
  | ended hl _ _ =>
    rcases hl with hl | ⟨hl, hs⟩
    · simp [hl]
    · simp [hl, hs]

/-- The structural invariant survives a write of one record that leaves that record in order. -/
theorem Inv.write (hi : Inv s) (hw : WritesRecord s t c k k1) (hl : LifeMove s t k k1) (hown : ChannelInv t c k1)
    (hwire : ∀ e ∈ t.wire, e.outcome = .ok → e.delivered = e.sent) : Inv t := by
  have hall : ∀ (c' : Nat) (k' : Channel), t.chs[c']? = some k' → ChannelInv t c' k' :=
    fun c' k' => hi.channelInv_of_write hw hl hown
  obtain ⟨hone, hinit⟩ := hi.init_of_write hw hl
  obtain ⟨hfresh, hready⟩ := hi.session_of_write hw hl
  constructor
  case channels => rw [hw.chs, hw.cfg, List.length_set, hi.channels]
  case buffers =>
    intro k' hk'
    obtain ⟨c', hc'⟩ := List.getElem?_of_mem hk'
    exact (hall c' k' hc').buffer
  case rows => exact fun c' k' row hk' => (hall c' k' hk').row row
  case holder =>
    intro c' hg
    obtain ⟨k', hk'⟩ := hw.exists_get fun hc => (hi.holder c' ((hw.guard c' hc).mp hg)).imp fun _ h => h.1
    exact ⟨k', hk', (hall c' k' hk').holder hg⟩
  case progs => exact fun c' k' op hk' => (hall c' k' hk').prog op
  case flight =>
    intro c' bytes t0 hb
    obtain ⟨k', hk'⟩ := hw.exists_get fun hc =>
      (hi.flight c' bytes t0 ((hw.bus c' hc bytes t0).mp hb)).2.imp fun _ h => h.1
    obtain ⟨hg, htx⟩ := (hall c' k' hk').flight bytes t0 hb
    exact ⟨hg, k', hk', htx⟩
  case pending => exact fun c' k' hk' => (hall c' k' hk').pending
  case one_init => exact fun a b ka kb hka hkb hoa hob => hone a b ⟨ka, hka, hoa⟩ ⟨kb, hkb, hob⟩
  case init_life => exact hinit
  case alone => exact fun hl c' k' hk' => (hall c' k' hk').alone hl
  case fresh => exact hfresh
  case ready_open => exact hready
  case delivered => exact hwire

end

end Sys2Proof.Machine
end

section
/-! State (spec/10_state.md), the structural invariant continued (O41, O42): what a micro-program in order says at each
head, and that every agent's move leaves the record it writes in order. -/

namespace Sys2Proof.Machine

open State

/-! ### What a completion and an acceptance leave alone -/

section
variable (s : State) (c : Nat) (bytes : List Byte) (t0 : Nat) (o : TxOutcome) (drawn : Nat)

@[simp] theorem completed_cfg : (completed s c bytes t0 o drawn).cfg = s.cfg := rfl
@[simp] theorem completed_now : (completed s c bytes t0 o drawn).now = s.now := rfl
@[simp] theorem completed_life : (completed s c bytes t0 o drawn).life = s.life := rfl
@[simp] theorem completed_session : (completed s c bytes t0 o drawn).session = s.session := rfl
@[simp] theorem completed_guard : (completed s c bytes t0 o drawn).guard = s.guard := rfl
@[simp] theorem completed_bus : (completed s c bytes t0 o drawn).bus = .idle := rfl
@[simp] theorem completed_chs : (completed s c bytes t0 o drawn).chs = s.chs := rfl
@[simp] theorem completed_wire :
    (completed s c bytes t0 o drawn).wire = s.wire ++ [completion s c bytes t0 o drawn] := rfl

end

section
variable (s : State) (k : Channel) (r : Request)

@[simp] theorem accept_cfg : (accept s k r).cfg = s.cfg := rfl
@[simp] theorem accept_now : (accept s k r).now = s.now := rfl
@[simp] theorem accept_life : (accept s k r).life = s.life := rfl
@[simp] theorem accept_session : (accept s k r).session = s.session := rfl
@[simp] theorem accept_guard : (accept s k r).guard = s.guard := rfl
@[simp] theorem accept_bus : (accept s k r).bus = s.bus := rfl
@[simp] theorem accept_wire : (accept s k r).wire = s.wire := rfl

end

/-! ### The head of a micro-program in order -/

section
variable {s : State} {c : Nat} {k : Channel} {op : Op} {p : List MicroOp}

theorem ChannelInv.at_openBus (h : ChannelInv s c k) (ho : k.op = some op) (hp : k.prog = .openBus :: p) :
    op = .init ∧ s.guard ≠ some c ∧ s.session ≠ .opened ∧ progOk s.cfg op false true p = true := by
  have hprog := h.prog op ho
  simp only [hp, progOk, Bool.and_eq_true, beq_iff_eq, Bool.not_eq_true', decide_eq_false_iff_not] at hprog
  obtain ⟨⟨⟨hinit, hguard⟩, hsession⟩, hrest⟩ := hprog
  exact ⟨hinit, hguard, hsession, by simpa [hguard] using hrest⟩

theorem ChannelInv.at_acq {b : Nat} (h : ChannelInv s c k) (ho : k.op = some op) (hp : k.prog = .acq b :: p) :
    s.guard ≠ some c ∧ progOk s.cfg op true (decide (s.session = .opened)) p = true := by
  have hprog := h.prog op ho
  simp only [hp, progOk, Bool.and_eq_true, Bool.not_eq_true', decide_eq_false_iff_not] at hprog
  obtain ⟨⟨hguard, -⟩, hrest⟩ := hprog
  exact ⟨hguard, hrest⟩

theorem ChannelInv.at_tx {bytes : List Byte} (h : ChannelInv s c k) (ho : k.op = some op)
    (hp : k.prog = .tx bytes :: p) :
    bytes.length = 2 ∧ allPackets s.cfg.backlight bytes = true ∧ p.head? = some (.wait s.cfg.tNibble) ∧
      progOk s.cfg op (decide (s.guard = some c)) (decide (s.session = .opened)) p = true := by
  have hprog := h.prog op ho
  simp only [hp, progOk, Bool.and_eq_true, beq_iff_eq] at hprog
  obtain ⟨⟨⟨⟨-, hlength⟩, hpackets⟩, hhead⟩, hrest⟩ := hprog
  exact ⟨hlength, hpackets, hhead, hrest⟩

theorem ChannelInv.at_txRow (h : ChannelInv s c k) (ho : k.op = some op) (hp : k.prog = .txRow :: p) :
    (∃ row, op = .writeRow row) ∧
      progOk s.cfg op (decide (s.guard = some c)) (decide (s.session = .opened)) p = true := by
  have hprog := h.prog op ho
  simp only [hp, progOk, Bool.and_eq_true] at hprog
  obtain ⟨⟨⟨hrow, -⟩, -⟩, hrest⟩ := hprog
  cases op with
  | writeRow row => exact ⟨⟨row, rfl⟩, hrest⟩
  | init => cases hrow
  | clear => cases hrow

theorem ChannelInv.at_wait {d : Nat} (h : ChannelInv s c k) (ho : k.op = some op) (hp : k.prog = .wait d :: p) :
    progOk s.cfg op (decide (s.guard = some c)) (decide (s.session = .opened)) p = true := by
  simpa only [hp, progOk] using h.prog op ho

theorem ChannelInv.at_rel (h : ChannelInv s c k) (ho : k.op = some op) (hp : k.prog = .rel :: p) :
    s.guard = some c ∧ progOk s.cfg op false (decide (s.session = .opened)) p = true := by
  have hprog := h.prog op ho
  simp only [hp, progOk, Bool.and_eq_true, decide_eq_true_eq] at hprog
  exact hprog

theorem ChannelInv.at_done {r : Result} (h : ChannelInv s c k) (ho : k.op = some op) (hp : k.prog = .done r :: p) :
    s.guard ≠ some c ∧ p = [] ∧ opReturns op r = true ∧ (r = .ok → s.session = .opened) := by
  have hprog := h.prog op ho
  simp only [hp, progOk, Bool.and_eq_true, Bool.not_eq_true', decide_eq_false_iff_not, List.isEmpty_iff,
    Bool.or_eq_true, bne_iff_ne, decide_eq_true_eq] at hprog
  obtain ⟨⟨⟨hguard, hlast⟩, hreturns⟩, hopen⟩ := hprog
  exact ⟨hguard, hlast, hreturns, fun hr => hopen.resolve_left (fun h => h hr)⟩

/-- A head transmission is a nibble or the row. -/
theorem headBytes_cases {bytes : List Byte} (h : headBytes k = some bytes) :
    (∃ p, k.prog = .tx bytes :: p) ∨ (∃ p, k.prog = .txRow :: p) ∧ bytes = k.rowbuf := by
  unfold headBytes at h
  split at h
  · rename_i p hp
    cases h
    exact .inl ⟨p, hp⟩
  · rename_i p hp
    cases h
    exact .inr ⟨⟨p, hp⟩, rfl⟩
  · cases h

/-- What stands behind a head transmission is in order. -/
theorem ChannelInv.after_transmission {bytes : List Byte} (h : ChannelInv s c k) (ho : k.op = some op)
    (hhead : headBytes k = some bytes) :
    progOk s.cfg op (decide (s.guard = some c)) (decide (s.session = .opened)) k.prog.tail = true := by
  rcases headBytes_cases hhead with ⟨p, hp⟩ | ⟨⟨p, hp⟩, -⟩
  · obtain ⟨-, -, -, hrest⟩ := h.at_tx ho hp
    rwa [hp]
  · obtain ⟨-, hrest⟩ := h.at_txRow ho hp
    rwa [hp]

/-- The micro-program of an accepted operation is in order: the guard not held, the session open but for INIT. -/
theorem progOk_opProg (cfg : Cfg) (op : Op) : progOk cfg op false (decide (op ≠ .init)) (opProg cfg op) = true := by
  cases op with
  | init => exact progOk_init cfg
  | clear => exact progOk_clear cfg
  | writeRow row => exact progOk_writeRow cfg row

end

/-! ### The record an agent's move writes -/

section
variable {s t v : State} {c : Nat} {k k1 : Channel} {p : List MicroOp}

theorem pop_chs (hk : s.chs[c]? = some k) : (s.pop c).chs = s.chs.set c (k.armedWith s.now k.prog.tail) := by
  rw [pop_eq hk, setCh_chs]

theorem fail_chs (hk : s.chs[c]? = some k) (e : Result) :
    (s.fail c e).chs = s.chs.set c (k.armedWith s.now (failTail s.cfg k.op e)) := by
  rw [fail_eq hk, setCh_chs, withGuard_chs]

/-- A pop writes its channel's record. -/
theorem pop_writes (hk : s.chs[c]? = some k) (hcfg : v.cfg = s.cfg) (hchs : v.chs = s.chs)
    (hguard : ∀ c', c' ≠ c → (v.guard = some c' ↔ s.guard = some c'))
    (hbus : ∀ c', c' ≠ c → ∀ bytes t0, v.bus = .busy c' bytes t0 ↔ s.bus = .busy c' bytes t0) :
    WritesRecord s (v.pop c) c k (k.armedWith v.now k.prog.tail) where
  cfg := by simpa using hcfg
  before := hk
  chs := by rw [pop_chs (hchs ▸ hk), hchs]
  guard := by simpa using hguard
  bus := by simpa using hbus

/-- A failure writes its channel's record, and the guard only as its channel sees it. -/
theorem fail_writes (hk : s.chs[c]? = some k) (hcfg : v.cfg = s.cfg) (hchs : v.chs = s.chs) (hguard : v.guard = s.guard)
    (hbus : ∀ c', c' ≠ c → ∀ bytes t0, v.bus = .busy c' bytes t0 ↔ s.bus = .busy c' bytes t0) (e : Result) :
    WritesRecord s (v.fail c e) c k (k.armedWith v.now (failTail s.cfg k.op e)) where
  cfg := by simpa using hcfg
  before := hk
  chs := by rw [fail_chs (hchs ▸ hk), hchs, hcfg]
  guard := by
    intro c' hne
    rw [fail_guard, guardWithout_other v hne, hguard]
  bus := by simpa using hbus

/-- A busy channel that goes on with a micro-program in order, its transmission if any completed, keeps the
invariant. -/
theorem Inv.rearm {now : Nat} (hi : Inv s) (hw : WritesRecord s t c k (k.armedWith now p)) (ho : k.op ≠ none)
    (hlife : t.life = s.life) (hsession : t.session = s.session ∨ k.op = some .init ∧ t.session = .opened)
    (hbus : ∀ bytes t0, t.bus ≠ .busy c bytes t0)
    (hp : ∀ op, k.op = some op →
      progOk s.cfg op (decide (t.guard = some c)) (decide (t.session = .opened)) p = true)
    (hwire : ∀ e ∈ t.wire, e.outcome = .ok → e.delivered = e.sent) : Inv t := by
  refine hi.write hw ?_ ((hi.channelInv hw.before).armedWith ho hw.cfg hlife hbus now hp) hwire
  rcases hsession with hs | ⟨hinit, hs⟩
  · exact .kept hlife hs Iff.rfl
  · exact .opened hlife hs hinit hinit

/-- The failure tail of a busy channel is in order (R116): for every error of INIT, and for a guard timeout or a failed
transmission of every operation. -/
theorem progOk_after_fail {cfg : Cfg} {e : Result} {opened : Bool}
    (he : k.op = some .init ∨ e = .timedout ∨ e = .buserror) :
    ∀ op, k.op = some op →
      progOk cfg op (decide (v.guardWithout c = some c)) opened (failTail cfg k.op e) = true := by
  intro op ho
  rw [ho, decide_eq_false (guardWithout_self v c)]
  refine progOk_failTail cfg op opened e ?_
  simpa [ho] using he

/-- A channel that fails keeps the invariant, its transmission if any completed. -/
theorem Inv.fail (hi : Inv s) (hk : s.chs[c]? = some k) (ho : k.op ≠ none) (hcfg : v.cfg = s.cfg) (hchs : v.chs = s.chs)
    (hguard : v.guard = s.guard) (hlife : v.life = s.life) (hsession : v.session = s.session)
    (hbus : ∀ c' bytes t0, v.bus = .busy c' bytes t0 ↔ c' ≠ c ∧ s.bus = .busy c' bytes t0)
    (hwire : ∀ e ∈ v.wire, e.outcome = .ok → e.delivered = e.sent) {e : Result}
    (he : k.op = some .init ∨ e = .timedout ∨ e = .buserror) : Inv (v.fail c e) := by
  have hw := fail_writes hk hcfg hchs hguard (fun c' hne bytes t0 => by simp [hbus, hne]) e
  refine hi.rearm hw ho (by simpa using hlife) (.inl (by simpa using hsession)) (fun bytes t0 => by simp [hbus]) ?_ ?_
  · simpa only [fail_guard] using progOk_after_fail he
  · simpa using hwire

/-- A record of an idle channel is in order when its buffer is whole and nothing of it is under way. -/
theorem ChannelInv.of_idle (ho : k.op = none) (hbuffer : k.rowbuf.length = 68) (htx : k.txpend = false)
    (hguard : s.guard ≠ some c) (hbus : ∀ bytes t0, s.bus ≠ .busy c bytes t0) : ChannelInv s c k where
  buffer := hbuffer
  row := fun row h => by cases ho.symm.trans h
  holder := fun hg => absurd hg hguard
  prog := fun op h => by cases ho.symm.trans h
  flight := fun bytes t0 hb => absurd hb (hbus bytes t0)
  pending := fun h => by cases htx.symm.trans h
  alone := fun _ _ => ho

/-- A channel without a transmission in flight has none pending (I3 of R37). -/
theorem Inv.not_pending (hi : Inv s) (hk : s.chs[c]? = some k) (hbus : ∀ bytes t0, s.bus ≠ .busy c bytes t0) :
    k.txpend = false := by
  refine Bool.eq_false_iff.mpr fun htx => ?_
  obtain ⟨bytes, t0, hb⟩ := hi.pending c k hk htx
  exact hbus bytes t0 hb

/-- Writing an idle channel's record, the channel staying idle and its buffer whole, keeps the invariant. -/
theorem Inv.write_idle (hi : Inv s) (hk : s.chs[c]? = some k) (ho : k.op = none) (ho1 : k1.op = none)
    (htx : k1.txpend = k.txpend) (hbuffer : k1.rowbuf.length = 68) : Inv (s.setCh c k1) := by
  refine hi.write (k := k) (k1 := k1) ⟨rfl, hk, rfl, fun _ _ => Iff.rfl, fun _ _ _ _ => Iff.rfl⟩
    (.kept rfl rfl (by simp [ho, ho1])) ?_ hi.delivered
  have hbus := hi.idle_not_in_flight hk ho
  exact .of_idle ho1 hbuffer (htx.trans (hi.not_pending hk hbus)) (hi.idle_not_holder hk ho) hbus

/-- A channel whose operation is accepted is in order: INIT's before the session is open, the others' in a READY
block. -/
theorem Inv.accept_channelInv (hi : Inv s) (hk : s.chs[c]? = some k) (ho : k.op = none) (hcfg : t.cfg = s.cfg)
    (hguard : t.guard = s.guard) (hbus : t.bus = s.bus) (r : Request)
    (hbuffer : k1.rowbuf.length = 68) (hrow : ∀ row, r.op = .writeRow row → k1.rowbuf = rowBytes s.cfg row r.text)
    (hready : r.op ≠ .init → t.life = .ready) (hsession : t.session = .opened ↔ r.op ≠ .init) (now : Nat) :
    ChannelInv t c ({ k1 with op := some r.op, text := r.text }.armedWith now (opProg s.cfg r.op)) where
  buffer := hbuffer
  row := fun row h => hcfg ▸ hrow row (Option.some.inj h)
  holder := fun _ => by simp
  prog := by
    intro op h
    cases h
    rw [hcfg, hguard, decide_eq_false (hi.idle_not_holder hk ho), decide_eq_decide.mpr hsession]
    exact progOk_opProg s.cfg r.op
  flight := fun bytes t0 hb => absurd (hbus ▸ hb) (hi.idle_not_in_flight hk ho bytes t0)
  pending := fun h => by cases h
  alone := fun hl hne => absurd (hready fun h => hne (congrArg some h)) hl

end

/-! ### Every agent's move keeps the invariant -/

section
variable {s t : State} {c : Nat} {k : Channel}

/-- The structural invariant is about the machine alone. -/
theorem Inv.of_sameMachine (hi : Inv s) (h : SameMachine s t) : Inv t := by
  obtain ⟨agenda, draws, slot, sel, via, rfl⟩ := h.exists_eq
  exact { hi with }

/-- Accepting CLEAR or WRITE_ROW keeps the invariant (R211). -/
theorem Inv.accept_ready {k1 : Channel} (hi : Inv s) (hk : s.chs[s.sel]? = some k) (ho : k.op = none)
    (hl : s.life = .ready) (r : Request) (hr : r.op ≠ .init) (hbuffer : k1.rowbuf.length = 68)
    (hrow : ∀ row, r.op = .writeRow row → k1.rowbuf = rowBytes s.cfg row r.text) : Inv (accept s k1 r) := by
  refine hi.write ⟨rfl, hk, rfl, fun _ _ => Iff.rfl, fun _ _ _ _ => Iff.rfl⟩ (.kept rfl rfl ?_) ?_ hi.delivered
  · simp [ho, hr]
  · exact hi.accept_channelInv (t := accept s k1 r) hk ho rfl rfl rfl r hbuffer hrow (fun _ => hl)
      (by simp [hr, hi.ready_open hl]) s.now

/-- Accepting INIT keeps the invariant (R211). -/
theorem Inv.accept_init (hi : Inv s) (hk : s.chs[s.sel]? = some k) (ho : k.op = none) (hl : s.life = .uninit) :
    Inv ((accept s k { op := .init, text := [] }).withLife .initializing) := by
  refine hi.write ⟨rfl, hk, rfl, fun _ _ => Iff.rfl, fun _ _ _ _ => Iff.rfl⟩ (.accepted hl rfl rfl rfl) ?_ hi.delivered
  refine hi.accept_channelInv (t := (accept s k { op := .init, text := [] }).withLife .initializing) hk ho rfl rfl rfl
    { op := .init, text := [] } (hi.channelInv hk).buffer (by simp) (by simp) ?_ s.now
  simp [hi.fresh hl]

theorem Inv.instrEffect (hi : Inv s) (h : InstrEffect s t) : Inv t := by
  cases h with
  | nothing => exact hi
  | fault r => exact { hi with }
  | init k hk ho hl => exact hi.accept_init hk ho hl
  | clear k hk ho hl =>
    exact hi.accept_ready hk ho hl _ (by simp) (hi.channelInv hk).buffer (by simp)
  | row k row text hk ho hl =>
    refine hi.accept_ready hk ho hl _ (by simp) (rowBytes_length ..) ?_
    rintro row' h
    cases h
    rfl
  | assembled k p hk ho => exact hi.write_idle hk ho ho rfl (hi.channelInv hk).buffer
  | buffer k pos v rs hk ho hp =>
    have hbuffer := (hi.channelInv hk).buffer
    refine hi.write_idle hk ho ho rfl ?_
    rw [writeAt_length _ _ _ (by simpa [hbuffer] using hp), hbuffer]

/-- A DONE in order ends the operation and keeps the invariant (R115). -/
theorem Inv.finish {r : Result} {p : List MicroOp} (hi : Inv s) (hk : s.chs[c]? = some k) (ho : k.op ≠ none)
    (hp : k.prog = .done r :: p) : Inv (finish c k r s) := by
  obtain ⟨op, hop⟩ := Option.ne_none_iff_exists'.mp ho
  obtain ⟨hguard, -, -, hopen⟩ := (hi.channelInv hk).at_done hop hp
  have hbus := hi.not_in_flight hk (by simp [headBytes, hp])
  have htx := hi.not_pending hk hbus
  refine hi.write (k := k) (k1 := { k with result := some r, op := none, prog := [] })
    ⟨rfl, hk, rfl, fun _ _ => Iff.rfl, fun _ _ _ _ => Iff.rfl⟩ ?_
    (.of_idle rfl (hi.channelInv hk).buffer htx hguard hbus) hi.delivered
  by_cases hinit : op = .init
  · subst hinit
    refine .ended ?_ hop rfl
    by_cases hr : r = .ok
    · exact .inr ⟨by simp [Machine.finish, lifeAfter, hop, hr], hopen hr⟩
    · exact .inl (by simp [Machine.finish, lifeAfter, hop, hr])
  · exact .kept (by simp [Machine.finish, lifeAfter, hop, hinit]) rfl (by simp [hop, hinit])

/-- A move of a channel that is at no transmission leaves the bus to the other channels. -/
theorem Inv.bus_iff_other (hi : Inv s) (hk : s.chs[c]? = some k) (hhead : headBytes k = none) (c' : Nat)
    (bytes : List Byte) (t0 : Nat) : s.bus = .busy c' bytes t0 ↔ c' ≠ c ∧ s.bus = .busy c' bytes t0 := by
  refine ⟨fun hb => ⟨?_, hb⟩, fun h => h.2⟩
  rintro rfl
  exact hi.not_in_flight hk hhead bytes t0 hb

theorem Inv.channelEffect (hi : Inv s) (hk : s.chs[c]? = some k) (ho : k.op ≠ none) (h : ChannelEffect c s k t) :
    Inv t := by
  have hown := hi.channelInv hk
  obtain ⟨op, hop⟩ := Option.ne_none_iff_exists'.mp ho
  have only_op {q : Op → Prop} (hq : q op) : ∀ op', k.op = some op' → q op' := by
    intro op' h'
    cases hop.symm.trans h'
    exact hq
  cases h with
  | openTaken p hp =>
    obtain ⟨rfl, hguard, -, hrest⟩ := hown.at_openBus hop hp
    refine hi.rearm (pop_writes hk rfl rfl (fun _ _ => Iff.rfl) (fun _ _ _ _ => Iff.rfl)) ho (by simp)
      (.inr ⟨hop, by simp⟩) ?_ (only_op ?_) (by simpa using hi.delivered)
    · simpa using hi.not_in_flight hk (by simp [headBytes, hp])
    · simpa [hguard, hp] using hrest
  | openFailed p hp =>
    obtain ⟨rfl, -⟩ := hown.at_openBus hop hp
    exact hi.fail hk ho rfl rfl rfl rfl rfl (hi.bus_iff_other hk (by simp [headBytes, hp])) hi.delivered (.inl hop)
  | granted b p hp hg =>
    obtain ⟨-, hrest⟩ := hown.at_acq hop hp
    refine hi.rearm (pop_writes hk rfl rfl ?_ (fun _ _ _ _ => Iff.rfl)) ho (by simp)
      (.inl (by simp)) ?_ (only_op ?_) (by simpa using hi.delivered)
    · intro c' hne
      simp [hg, Ne.symm hne]
    · simp [hi.bus_idle_of_guard_free hg]
    · simpa [hp] using hrest
  | gaveUp b p hp hg hd =>
    exact hi.fail hk ho rfl rfl rfl rfl rfl (hi.bus_iff_other hk (by simp [headBytes, hp])) hi.delivered
      (.inr (.inl rfl))
  | issued bytes hp ht hg hb hs =>
    refine hi.write (k := k) (k1 := { k with txpend := true }) ⟨rfl, hk, rfl, fun _ _ => Iff.rfl, ?_⟩
      (.kept rfl rfl Iff.rfl) ?_ hi.delivered
    · intro c' hne bytes' t0
      simp [hb, Ne.symm hne]
    · refine { hown with flight := ?_, pending := fun _ => ⟨bytes, s.now, rfl⟩ }
      intro bytes' t0 h
      cases h
      exact ⟨hg, rfl, hp⟩
  | waited d p hp hd =>
    have hrest := hown.at_wait hop hp
    refine hi.rearm (pop_writes hk rfl rfl (fun _ _ => Iff.rfl) (fun _ _ _ _ => Iff.rfl)) ho (by simp)
      (.inl (by simp)) ?_ (only_op ?_) (by simpa using hi.delivered)
    · simpa using hi.not_in_flight hk (by simp [headBytes, hp])
    · simpa [hp] using hrest
  | released p hp =>
    obtain ⟨hguard, hrest⟩ := hown.at_rel hop hp
    refine hi.rearm (pop_writes hk rfl rfl ?_ (fun _ _ _ _ => Iff.rfl)) ho (by simp)
      (.inl (by simp)) ?_ (only_op ?_) (by simpa using hi.delivered)
    · intro c' hne
      simp [hguard, Ne.symm hne]
    · simpa using hi.not_in_flight hk (by simp [headBytes, hp])
    · simpa [hp] using hrest
  | finished r p hp => exact hi.finish hk ho hp

/-- A completion with OK delivers what was sent (I6 of R37). -/
theorem Inv.completion_delivered (hi : Inv s) (c : Nat) (bytes : List Byte) (t0 : Nat) (o : TxOutcome) (drawn : Nat) :
    ∀ e ∈ s.wire ++ [completion s c bytes t0 o drawn], e.outcome = .ok → e.delivered = e.sent := by
  intro e he hok
  rcases List.mem_append.mp he with he | he
  · exact hi.delivered e he hok
  · cases List.mem_singleton.mp he
    obtain rfl : o = .ok := hok
    exact List.take_length

/-- The channel whose transmission is in flight: its record, and what is in flight is its head. -/
theorem Inv.transmitting {bytes : List Byte} {t0 : Nat} (hi : Inv s) (hb : s.bus = .busy c bytes t0) :
    ∃ (k : Channel) (op : Op), s.chs[c]? = some k ∧ k.op = some op ∧ s.guard = some c ∧ headBytes k = some bytes := by
  obtain ⟨hg, k, hk, -, hhead⟩ := hi.flight c bytes t0 hb
  obtain ⟨op, ho⟩ := Option.ne_none_iff_exists'.mp ((hi.channelInv hk).holder hg)
  exact ⟨k, op, hk, ho, hg, hhead⟩

theorem Inv.busEffect {bytes : List Byte} {t0 : Nat} (hi : Inv s) (hb : s.bus = .busy c bytes t0) (o : TxOutcome)
    (drawn : Nat) : Inv (afterTx (completed s c bytes t0 o drawn) c o) := by
  obtain ⟨k, op, hk, hop, hg, hhead⟩ := hi.transmitting hb
  have ho : k.op ≠ none := by simp [hop]
  have hwire := hi.completion_delivered c bytes t0 o drawn
  have hbus : ∀ c' bytes' t0', (completed s c bytes t0 o drawn).bus = .busy c' bytes' t0' ↔
      c' ≠ c ∧ s.bus = .busy c' bytes' t0' := by
    intro c' bytes' t0'
    simp only [completed_bus, hb, Bus.busy.injEq, reduceCtorEq, false_iff]
    exact fun ⟨hne, h, _⟩ => hne h.symm
  have hfail (e : Result) (he : e = .timedout ∨ e = .buserror) : Inv ((completed s c bytes t0 o drawn).fail c e) :=
    hi.fail (v := completed s c bytes t0 o drawn) hk ho rfl rfl rfl rfl rfl hbus hwire (.inr he)
  cases o with
  | ok =>
    refine hi.rearm (t := (completed s c bytes t0 .ok drawn).pop c)
      (pop_writes hk rfl rfl (fun _ _ => Iff.rfl) fun c' hne bytes' t0' =>
        (hbus c' bytes' t0').trans (and_iff_right hne)) ho (pop_life ..) (.inl (pop_session ..)) (by simp) ?_
      (by simpa using hwire)
    intro op' h'
    simpa only [pop_guard, pop_session, completed_guard, completed_session] using
      (hi.channelInv hk).after_transmission h' hhead
  | buserror => exact hfail .buserror (.inr rfl)
  | timedout => exact hfail .timedout (.inl rfl)

theorem Inv.machineEffect (hi : Inv s) (h : MachineEffect s t) : Inv t := by
  cases h with
  | instr h => exact hi.instrEffect h
  | channel c k hk ho h => exact hi.channelEffect hk ho h
  | bus c bytes t0 o drawn hb _ => exact hi.busEffect hb o drawn
  | time d _ => exact { hi with }

theorem Inv.step (hi : Inv s) (h : Machine.step s = .next t) : Inv t :=
  step_keeps (fun _ _ hsame hi => hi.of_sameMachine hsame) (fun _ _ heffect hi => hi.machineEffect heffect) hi h

/-- Settles O41: every agent's move writes at most one record and leaves it in order. -/
theorem stepKeepsInvariant : Obligations.StepKeepsInvariant := by
  unfold Obligations.StepKeepsInvariant
  exact fun _ _ hi h => hi.step h

/-- Settles O42, each clause of R37 from the clause of the structural invariant that says it: I7 because no
micro-program in order is empty. -/
theorem invariantImpliesSpecInvariants : Obligations.InvariantImpliesSpecInvariants := by
  unfold Obligations.InvariantImpliesSpecInvariants
  intro s hi
  refine ⟨hi.holder, hi.flight, hi.pending, hi.one_init, hi.init_life, fun hl => hi.alone ?_, hi.delivered, ?_⟩
  · rcases hl with hl | hl <;> simp [hl]
  · intro c k hk ho hempty
    obtain ⟨op, hop⟩ := Option.ne_none_iff_exists'.mp ho
    have hprog := hi.progs c k op hk hop
    simp [hempty, progOk] at hprog

end

end Sys2Proof.Machine
end

section
/-! State (spec/10_state.md): arming and pop (O27), reset (O38), the status view (O39), and what a step can do to the
time (O54), the lifecycle (O55), the session (O56), the guard (O57) and one channel's record (O43, O58). -/

namespace Sys2Proof.Machine

open State

/-! ### Arming -/

/-- A head that is neither a WAIT nor an ACQ arms nothing (R32). -/
theorem armedDeadline_other {now old : Nat} {p : List MicroOp} (hwait : ∀ d rest, p ≠ .wait d :: rest)
    (hacq : ∀ b rest, p ≠ .acq b :: rest) : armedDeadline now p old = old := by
  unfold armedDeadline
  split
  · rename_i d rest
    exact absurd rfl (hwait d rest)
  · rename_i b rest
    exact absurd rfl (hacq b rest)
  · rfl

/-- Settles O27: the record a pop writes is the old one armed with the rest of its micro-program. -/
theorem popArmsTheNewHead : Obligations.PopArmsTheNewHead := by
  unfold Obligations.PopArmsTheNewHead
  intro s c k head rest hk hprog
  have hpop : s.pop c = s.setCh c (k.armedWith s.now rest) := by rw [pop_eq hk, hprog, List.tail_cons]
  refine ⟨k.armedWith s.now rest, hpop, by rw [hpop, s.setCh_get_self hk], rfl, rfl, rfl, rfl, rfl, rfl, ?_, ?_, ?_⟩
  · rintro d p rfl
    rfl
  · rintro b p rfl
    rfl
  · exact armedDeadline_other

/-! ### Reset and the status view -/

/-- Settles O38: every field as `State.resetOf` writes it, every record a copy of `Channel.reset`. -/
theorem resetState : Obligations.ResetState := by
  unfold Obligations.ResetState
  intro cfg
  refine ⟨rfl, rfl, rfl, rfl, rfl, rfl, rfl, rfl, List.length_replicate, fun k hk => ?_⟩
  obtain rfl : k = Channel.reset := List.eq_of_mem_replicate hk
  exact ⟨rfl, rfl, rfl, rfl, rfl⟩

/-- The layout of the status view (R34): the lifecycle code in two bits, then four flags, then two zeros. -/
theorem statusByte_layout (life : Life) (session guard bus fault : Bool) :
    let v := lifeCode life ||| (flagBit session <<< 2) ||| (flagBit guard <<< 3) ||| (flagBit bus <<< 4) |||
      (flagBit fault <<< 5)
    v.extractLsb' 0 2 = (lifeCode life).extractLsb' 0 2 ∧ v.getLsbD 2 = session ∧ v.getLsbD 3 = guard ∧
      v.getLsbD 4 = bus ∧ v.getLsbD 5 = fault ∧ v.extractLsb' 6 2 = 0#2 := by
  cases life <;> (revert session guard bus fault; decide)

/-- Settles O39: the layout of the byte, and each flag as a test of its field. -/
theorem statusView : Obligations.StatusView := by
  unfold Obligations.StatusView
  intro s
  obtain ⟨hlife, hsession, hguard, hbus, hfault, hzero⟩ :=
    statusByte_layout s.life (s.session == .opened) s.guard.isSome (s.bus != .idle) s.fault.isSome
  refine ⟨hlife.trans ?_, hsession.trans ?_, hguard.trans ?_, hbus.trans ?_, hfault.trans ?_, hzero, fun c k hk => ?_⟩
  · cases s.life <;> rfl
  · exact beq_eq_decide ..
  · cases s.guard <;> rfl
  · exact Bool.eq_iff_iff.mpr (by simp)
  · cases s.fault <;> rfl
  · refine ⟨?_, ?_⟩
    · simp only [busyFlag, hk]
      cases k.op <;> rfl
    · simp +contextual [resultView, hk, resultCode]

/-! ### The time -/

/-- A step is one agent's move, made in a state that differs from the one before by the model's own fields. -/
theorem step_effect {s t : State} (h : step s = .next t) :
    ∃ agenda draws slot sel via,
      SameMachine s { s with agenda := agenda, draws := draws, slot := slot, sel := sel, via := via } ∧
        MachineEffect { s with agenda := agenda, draws := draws, slot := slot, sel := sel, via := via } t := by
  obtain ⟨-, -, u, hsame, heffect⟩ := step_cases h
  obtain ⟨agenda, draws, slot, sel, via, rfl⟩ := hsame.exists_eq
  exact ⟨agenda, draws, slot, sel, via, hsame, heffect⟩

/-- Settles O54: every move leaves the time, but the time agent's, which writes nothing else. -/
theorem timeMovesOnlyAlone : Obligations.TimeMovesOnlyAlone := by
  unfold Obligations.TimeMovesOnlyAlone
  intro s t h
  obtain ⟨_, _, _, _, _, hsame, heffect⟩ := step_effect h
  obtain ⟨-, hnow | ⟨d, -, rfl⟩⟩ := effect_time heffect
  · exact ⟨Nat.le_of_eq hnow.symm, fun hne => absurd hnow hne⟩
  · exact ⟨Nat.le_add_right .., fun _ => ⟨rfl, rfl, rfl, rfl, rfl, rfl, rfl, rfl, rfl, rfl⟩⟩

/-! ### The lifecycle and the session -/

section
variable {s t : State}

/-- What one agent's move can do to the lifecycle (R24). -/
theorem effect_life (hi : Inv s) (h : MachineEffect s t) : t.life = s.life ∨
    (s.life = .uninit ∧ t.life = .initializing ∧
      ∃ (c : Nat) (k k' : Channel), s.chs[c]? = some k ∧ k.op = none ∧ t.chs[c]? = some k' ∧ k'.op = some .init) ∨
    (s.life = .initializing ∧
      ∃ (c : Nat) (k k' : Channel) (r : Result) (p : List MicroOp), s.chs[c]? = some k ∧ k.op = some .init ∧
        k.prog = .done r :: p ∧ t.chs[c]? = some k' ∧ k'.op = none ∧ k'.result = some r ∧
        t.life = if r = .ok then .ready else .fatal) := by
  cases h with
  | instr h =>
    cases h with
    | init k hk ho hl => exact .inr (.inl ⟨hl, rfl, s.sel, k, _, hk, ho, s.setCh_get_self hk, rfl⟩)
    | _ => exact .inl rfl
  | channel c k hk ho h =>
    cases h with
    | issued => exact .inl rfl
    | finished r p hp =>
      by_cases hinit : k.op = some .init
      · refine .inr (.inr ⟨hi.initializing hk hinit, c, k, _, r, p, hk, hinit, hp, s.setCh_get_self hk, rfl, rfl, ?_⟩)
        simp [finish, lifeAfter, hinit]
      · exact .inl (by simp [finish, lifeAfter, hinit])
    | _ => exact .inl (by simp)
  | bus c bytes t0 o drawn hb ha => cases o <;> exact .inl (by simp [afterTx])
  | time d hd => exact .inl rfl

/-- What one agent's move can do to the session (R25): the OPEN of a channel that runs INIT opens it. -/
theorem effect_session (hi : Inv s) (h : MachineEffect s t) : t.session = s.session ∨
    (t.session = .opened ∧
      ∃ (c : Nat) (k : Channel) (p : List MicroOp), s.chs[c]? = some k ∧ k.op = some .init ∧
        k.prog = .openBus :: p) := by
  cases h with
  | instr h => cases h <;> exact .inl rfl
  | channel c k hk ho h =>
    cases h with
    | openTaken p hp =>
      obtain ⟨op, hop⟩ := Option.ne_none_iff_exists'.mp ho
      obtain ⟨rfl, -⟩ := (hi.channelInv hk).at_openBus hop hp
      exact .inr ⟨by simp, c, k, p, hk, hop, hp⟩
    | issued => exact .inl rfl
    | finished => exact .inl rfl
    | _ => exact .inl (by simp)
  | bus c bytes t0 o drawn hb ha => cases o <;> exact .inl (by simp [afterTx])
  | time d hd => exact .inl rfl

/-- Settles O55: of the moves only INIT's acceptance and INIT's DONE write `life`. -/
theorem lifecycleMoves : Obligations.LifecycleMoves := by
  unfold Obligations.LifecycleMoves
  intro s t hi h
  obtain ⟨_, _, _, _, _, hsame, heffect⟩ := step_effect h
  have hmove := effect_life (hi.of_sameMachine hsame) heffect
  exact hmove

/-- Settles O56: of the moves only OPEN writes the session, and in order it stands in INIT's micro-program alone. -/
theorem sessionOpensOnceAndStays : Obligations.SessionOpensOnceAndStays := by
  unfold Obligations.SessionOpensOnceAndStays
  intro s t hi h
  obtain ⟨_, _, _, _, _, hsame, heffect⟩ := step_effect h
  rcases effect_session (hi.of_sameMachine hsame) heffect with hkept | ⟨hopened, hinit⟩
  · refine ⟨fun ho => hkept.trans ho, fun hc ho => ?_⟩
    cases (hkept.trans hc).symm.trans ho
  · exact ⟨fun _ => hopened, fun _ _ => hinit⟩

/-! ### The guard -/

/-- A failure frees the guard its channel holds (R116). -/
theorem guardWithout_holder {c : Nat} (h : s.guard = some c) : s.guardWithout c = none := if_pos h

/-- A failure of a channel that does not hold the guard leaves it (R116). -/
theorem guardWithout_not_holder {c : Nat} (h : s.guard ≠ some c) : s.guardWithout c = s.guard := if_neg h

/-- What one agent's move can do to the guard (R26). -/
theorem effect_guard (hi : Inv s) (h : MachineEffect s t) : t.guard = s.guard ∨
    (s.guard = none ∧ ∃ (c : Nat) (k k' : Channel) (b : Nat) (p : List MicroOp),
      t.guard = some c ∧ s.chs[c]? = some k ∧ k.prog = .acq b :: p ∧ t.chs[c]? = some k' ∧ k'.prog = p) ∨
    (t.guard = none ∧ ∃ (c : Nat) (k k' : Channel), s.guard = some c ∧ s.chs[c]? = some k ∧ t.chs[c]? = some k' ∧
      ((∃ p : List MicroOp, k.prog = .rel :: p ∧ k'.prog = p) ∨
       (∃ (bytes : List Byte) (t0 : Nat) (e : WireEvent), s.bus = .busy c bytes t0 ∧ t.bus = .idle ∧
          t.wire = s.wire ++ [e] ∧ e.ch = c ∧
          ((e.outcome = .buserror ∧ k'.prog = failTail s.cfg k.op .buserror) ∨
           (e.outcome = .timedout ∧ k'.prog = failTail s.cfg k.op .timedout))))) := by
  cases h with
  | instr h => cases h <;> exact .inl rfl
  | channel c k hk ho h =>
    obtain ⟨op, hop⟩ := Option.ne_none_iff_exists'.mp ho
    cases h with
    | openFailed p hp =>
      obtain ⟨-, hg, -⟩ := (hi.channelInv hk).at_openBus hop hp
      exact .inl ((fail_guard ..).trans (guardWithout_not_holder hg))
    | gaveUp b p hp hg hd => exact .inl ((fail_guard ..).trans (guardWithout_not_holder hg))
    | granted b p hp hg =>
      refine .inr (.inl ⟨hg, c, k, k.armedWith s.now k.prog.tail, b, p, by simp, hk, hp, ?_, by simp [hp]⟩)
      rw [pop_eq (s := s.withGuard (some c)) hk]
      exact setCh_get_self _ hk
    | released p hp =>
      obtain ⟨hg, -⟩ := (hi.channelInv hk).at_rel hop hp
      refine .inr (.inr ⟨by simp, c, k, k.armedWith s.now k.prog.tail, hg, hk, ?_, .inl ⟨p, hp, by simp [hp]⟩⟩)
      rw [pop_eq (s := s.withGuard none) hk]
      exact setCh_get_self _ hk
    | issued => exact .inl rfl
    | finished => exact .inl rfl
    | _ => exact .inl (by simp)
  | bus c bytes t0 o drawn hb ha =>
    obtain ⟨k, -, hk, -, hg, -⟩ := hi.transmitting hb
    have hfail (e : Result) : ((completed s c bytes t0 o drawn).fail c e).guard = none ∧
        ((completed s c bytes t0 o drawn).fail c e).chs[c]? = some (k.armedWith s.now (failTail s.cfg k.op e)) := by
      refine ⟨(fail_guard ..).trans (guardWithout_holder hg), ?_⟩
      rw [fail_eq (s := completed s c bytes t0 o drawn) hk]
      exact setCh_get_self _ hk
    cases o with
    | ok => exact .inl (by simp [afterTx])
    | buserror =>
      obtain ⟨hfree, hrecord⟩ := hfail .buserror
      exact .inr (.inr ⟨hfree, c, k, _, hg, hk, hrecord,
        .inr ⟨bytes, t0, _, hb, afterTx_bus .., afterTx_wire .., rfl, .inl ⟨rfl, rfl⟩⟩⟩)
    | timedout =>
      obtain ⟨hfree, hrecord⟩ := hfail .timedout
      exact .inr (.inr ⟨hfree, c, k, _, hg, hk, hrecord,
        .inr ⟨bytes, t0, _, hb, afterTx_bus .., afterTx_wire .., rfl, .inr ⟨rfl, rfl⟩⟩⟩)
  | time d hd => exact .inl rfl

end

/-- Settles O57: ACQ, REL and a failed transmission write the guard; the other failures are of channels that do not hold
it. -/
theorem guardMoves : Obligations.GuardMoves := by
  unfold Obligations.GuardMoves
  intro s t hi h
  obtain ⟨_, _, _, _, _, hsame, heffect⟩ := step_effect h
  have hmove := effect_guard (hi.of_sameMachine hsame) heffect
  exact hmove

/-! ### One channel's record -/

/-- Everything a move can do to one channel's record `k` (R23): leave it; start an operation on an idle channel, or
assemble on it; pop or fail; issue a transmission; and finish by a DONE. -/
inductive RecordMove (cfg : Cfg) (now : Nat) (k : Channel) : Channel → Prop
  | kept : RecordMove cfg now k k
  | accepted (buf : List Byte) (r : Request) (ho : k.op = none) :
      RecordMove cfg now k
        ({ k with op := some r.op, text := r.text, rowbuf := buf }.armedWith now (opProg cfg r.op))
  | assembled (p : List MicroOp) (buf : List Byte) (ho : k.op = none) :
      RecordMove cfg now k { k with prog := p, rowbuf := buf }
  | popped : RecordMove cfg now k (k.armedWith now k.prog.tail)
  | failed (e : Result) : RecordMove cfg now k (k.armedWith now (failTail cfg k.op e))
  | issued : RecordMove cfg now k { k with txpend := true }
  | finished (r : Result) (p : List MicroOp) (hp : k.prog = .done r :: p) :
      RecordMove cfg now k { k with result := some r, op := none, prog := [] }

section
variable {s t v : State} {c c' : Nat} {k k1 k' : Channel}

/-- A state whose records are those of `s` moves none of them. -/
theorem record_kept (hv : v.chs = s.chs) (h : v.chs[c']? = some k') :
    ∃ k, s.chs[c']? = some k ∧ RecordMove s.cfg s.now k k' := ⟨k', hv ▸ h, .kept⟩

/-- Writing one record moves that one. -/
theorem record_written (hv : v.chs = s.chs) (hk : s.chs[c]? = some k) (hmove : RecordMove s.cfg s.now k k1)
    (h : (v.setCh c k1).chs[c']? = some k') : ∃ k, s.chs[c']? = some k ∧ RecordMove s.cfg s.now k k' :=
  record_of_setCh (fun _ => .kept) hv hk hmove h

theorem record_popped (hv : v.chs = s.chs) (hnow : v.now = s.now) (h : (v.pop c).chs[c']? = some k') :
    ∃ k, s.chs[c']? = some k ∧ RecordMove s.cfg s.now k k' := by
  cases hk : v.chs[c]? with
  | none => exact record_kept hv (by simpa [pop, hk] using h)
  | some k =>
    rw [pop_eq hk] at h
    exact record_written hv (hv ▸ hk) (hnow ▸ .popped) h

theorem record_failed {e : Result} (hv : v.chs = s.chs) (hnow : v.now = s.now) (hcfg : v.cfg = s.cfg)
    (h : (v.fail c e).chs[c']? = some k') : ∃ k, s.chs[c']? = some k ∧ RecordMove s.cfg s.now k k' := by
  cases hk : v.chs[c]? with
  | none => exact record_kept hv (by simpa [fail, hk] using h)
  | some k =>
    rw [fail_eq hk] at h
    exact record_written hv (hv ▸ hk) (hnow ▸ hcfg ▸ .failed e) h

/-- Every record after an agent's move comes from that channel's record before it. -/
theorem effect_record (h : MachineEffect s t) (hk' : t.chs[c']? = some k') :
    ∃ k, s.chs[c']? = some k ∧ RecordMove s.cfg s.now k k' := by
  cases h with
  | instr h =>
    cases h with
    | nothing => exact record_kept rfl hk'
    | fault r => exact record_kept rfl hk'
    | init k hk ho hl => exact record_written rfl hk (.accepted k.rowbuf ⟨.init, []⟩ ho) hk'
    | clear k hk ho hl => exact record_written rfl hk (.accepted k.rowbuf ⟨.clear, []⟩ ho) hk'
    | row k row text hk ho hl => exact record_written rfl hk (.accepted _ ⟨.writeRow row, text⟩ ho) hk'
    | assembled k p hk ho => exact record_written rfl hk (.assembled _ k.rowbuf ho) hk'
    | buffer k pos v rs hk ho hp => exact record_written rfl hk (.assembled k.prog _ ho) hk'
  | channel c k hk ho h =>
    cases h with
    | openTaken p hp => exact record_popped (v := s.withSession .opened) rfl rfl hk'
    | openFailed p hp => exact record_failed rfl rfl rfl hk'
    | granted b p hp hg => exact record_popped (v := s.withGuard (some c)) rfl rfl hk'
    | gaveUp b p hp hg hd => exact record_failed rfl rfl rfl hk'
    | issued bytes hp ht hg hb hs => exact record_written rfl hk .issued hk'
    | waited d p hp hd => exact record_popped rfl rfl hk'
    | released p hp => exact record_popped (v := s.withGuard none) rfl rfl hk'
    | finished r p hp => exact record_written rfl hk (.finished r p hp) hk'
  | bus c bytes t0 o drawn hb ha =>
    cases o with
    | ok => exact record_popped (v := completed s c bytes t0 .ok drawn) rfl rfl hk'
    | buserror =>
      exact record_failed (v := completed s c bytes t0 .buserror drawn) (e := .buserror) rfl rfl rfl hk'
    | timedout =>
      exact record_failed (v := completed s c bytes t0 .timedout drawn) (e := .timedout) rfl rfl rfl hk'
  | time d hd => exact record_kept rfl hk'

/-- Every record after a step comes from that channel's record before it. -/
theorem step_record (h : step s = .next t) (hk' : t.chs[c']? = some k') :
    ∃ k, s.chs[c']? = some k ∧ RecordMove s.cfg s.now k k' := by
  obtain ⟨_, _, _, _, _, hsame, heffect⟩ := step_effect h
  have hmove := effect_record heffect hk'
  exact hmove

end

/-- Settles O58: of what a move can do to a record, only DONE writes the result. -/
theorem resultWrittenOnlyByDone : Obligations.ResultWrittenOnlyByDone := by
  unfold Obligations.ResultWrittenOnlyByDone
  intro s t c k k' h hk hk'
  obtain ⟨k0, hk0, hmove⟩ := step_record h hk'
  cases hk.symm.trans hk0
  cases hmove with
  | finished r p hp => exact .inr ⟨r, p, hp, rfl, rfl⟩
  | _ => exact .inl rfl

/-- Settles O43: acceptance and failure write a whole list, a pop leaves a suffix, and no other move of a busy channel
touches its micro-program. -/
theorem stepKeepsProgramsFixed : Obligations.StepKeepsProgramsFixed := by
  unfold Obligations.StepKeepsProgramsFixed
  intro s t hfixed h c k' op hk' ho'
  obtain ⟨k, hk, hmove⟩ := step_record h hk'
  rw [step_cfg h]
  cases hmove with
  | kept => exact hfixed c k' op hk ho'
  | accepted buf r ho =>
    cases ho'
    exact .inl (List.suffix_refl _)
  | assembled p buf ho => cases ho.symm.trans ho'
  | popped =>
    have hsuffix := List.tail_suffix k.prog
    rcases hfixed c k op hk ho' with hrest | ⟨e, hrest⟩
    · exact .inl (hsuffix.trans hrest)
    · exact .inr ⟨e, hsuffix.trans hrest⟩
  | failed e =>
    have ho : k.op = some op := ho'
    exact .inr ⟨e, by simp [ho]⟩
  | issued => exact hfixed c k op hk ho'
  | finished r p hp => cases ho'

end Sys2Proof.Machine
end

section
/-! The wire trace over every step: its time order (R63) and the shape of its events (R27, R57, R80). -/

namespace Sys2Proof.Machine

open State

/-! ### The trace grows at its end -/

/-- Two neighbours of a list one longer are neighbours of the list, or its last element and the new one. -/
theorem neighbours_append_singleton {α : Type} {l : List α} {a x y : α} {i : Nat} (hx : (l ++ [a])[i]? = some x)
    (hy : (l ++ [a])[i + 1]? = some y) :
    (l[i]? = some x ∧ l[i + 1]? = some y) ∨ (l.getLast? = some x ∧ y = a) := by
  obtain ⟨hlength, -⟩ := List.getElem?_eq_some_iff.mp hy
  rw [List.length_append, List.length_singleton] at hlength
  rw [List.getElem?_append_left (by omega)] at hx
  by_cases hi : i + 1 < l.length
  · rw [List.getElem?_append_left hi] at hy
    exact .inl ⟨hx, hy⟩
  · have hend : i + 1 = l.length := by omega
    rw [hend, List.getElem?_concat_length] at hy
    refine .inr ⟨?_, (Option.some.inj hy).symm⟩
    rw [List.getLast?_eq_getElem?, ← hend, Nat.add_sub_cancel, hx]

section
variable {s t : State}

/-- No move takes the time back (R29). -/
theorem effect_now_le (h : MachineEffect s t) : s.now ≤ t.now := by
  obtain ⟨-, hnow | ⟨d, -, rfl⟩⟩ := effect_time h
  · exact Nat.le_of_eq hnow.symm
  · exact Nat.le_add_right ..

/-! ### Time order -/

/-- A move that leaves the trace and the bus keeps the time order. -/
theorem TraceOrdered.of_unchanged (h : TraceOrdered s) (hwire : t.wire = s.wire) (hbus : t.bus = s.bus)
    (hnow : s.now ≤ t.now) : TraceOrdered t where
  each := by
    intro e he
    obtain ⟨h0, h1⟩ := h.each e (hwire ▸ he)
    exact ⟨h0, h1.trans hnow⟩
  order := hwire ▸ h.order
  flight := by
    intro c bytes t0 hb
    obtain ⟨h0, hall⟩ := h.flight c bytes t0 (hbus ▸ hb)
    exact ⟨h0.trans hnow, hwire ▸ hall⟩

theorem TraceOrdered.of_sameMachine (h : TraceOrdered s) (hsame : SameMachine s t) : TraceOrdered t := by
  obtain ⟨-, hnow, -, -, -, hbus, hwire, -⟩ := hsame
  exact h.of_unchanged hwire hbus (Nat.le_of_eq hnow.symm)

/-- A completion starts its event where the transmission was issued, after every event of the trace (R110). -/
theorem TraceOrdered.of_completion {c : Nat} {bytes : List Byte} {t0 : Nat} {e : WireEvent} (h : TraceOrdered s)
    (hb : s.bus = .busy c bytes t0) (he0 : e.t0 = t0) (he1 : e.t1 = s.now) (hwire : t.wire = s.wire ++ [e])
    (hbus : t.bus = .idle) (hnow : t.now = s.now) : TraceOrdered t := by
  obtain ⟨hstart, hbefore⟩ := h.flight c bytes t0 hb
  constructor
  case each =>
    rw [hwire, hnow]
    intro e' he'
    rcases List.mem_append.mp he' with hold | hnew
    · exact h.each e' hold
    · obtain rfl := List.mem_singleton.mp hnew
      exact ⟨by rw [he0, he1]; exact hstart, he1.le⟩
  case order =>
    rw [hwire]
    intro i e1 e2 h1 h2
    rcases neighbours_append_singleton h1 h2 with ⟨h1, h2⟩ | ⟨hlast, rfl⟩
    · exact h.order i e1 e2 h1 h2
    · exact he0 ▸ hbefore e1 (List.mem_of_getLast? hlast)
  case flight =>
    intro c' bytes' t0' hb'
    cases hbus.symm.trans hb'

theorem TraceOrdered.machineEffect (h : TraceOrdered s) (he : MachineEffect s t) : TraceOrdered t := by
  rcases effect_wire he with ⟨hwire, hbus⟩ | ⟨hwire, -, hnow, c, k, bytes, -, -, -, -, hbus⟩ |
    ⟨hbus, hnow, c, bytes, t0, o, drawn, hb, -, hwire⟩
  · exact h.of_unchanged hwire hbus (effect_now_le he)
  · refine ⟨hwire ▸ hnow ▸ h.each, hwire ▸ h.order, fun c' bytes' t0' hb => ?_⟩
    cases hbus.symm.trans hb
    refine ⟨Nat.le_of_eq hnow.symm, fun e hmem => ?_⟩
    obtain ⟨-, hend⟩ := h.each e (hwire ▸ hmem)
    exact hend
  · exact h.of_completion hb rfl rfl hwire hbus hnow

theorem TraceOrdered.step (h : TraceOrdered s) (hs : Machine.step s = .next t) : TraceOrdered t :=
  step_keeps (fun _ _ hsame h => h.of_sameMachine hsame) (fun _ _ heffect h => h.machineEffect heffect) h hs

/-! ### Shape -/

/-- A head transmission in order decodes: a nibble is one NibblePacket, a row the 68 bytes built for it (R57, R80). -/
theorem ChannelInv.decodes {c : Nat} {k : Channel} {op : Op} {bytes : List Byte} (h : ChannelInv s c k)
    (ho : k.op = some op) (hhead : headBytes k = some bytes) :
    (decodeTransmission s.cfg.backlight bytes).isSome = true := by
  rcases headBytes_cases hhead with ⟨p, hp⟩ | ⟨⟨p, hp⟩, rfl⟩
  · obtain ⟨hlength, hpackets, -⟩ := h.at_tx ho hp
    simp [decodeTransmission, hlength, hpackets]
  · obtain ⟨⟨row, rfl⟩, -⟩ := h.at_txRow ho hp
    simp [decodeTransmission, h.row row ho, rowBytes_allPackets]

/-- A channel that exists has a number below `NREQ`. -/
theorem Inv.channel_lt {c : Nat} {k : Channel} (hi : Inv s) (hk : s.chs[c]? = some k) : c < s.cfg.nreq := by
  obtain ⟨hlt, -⟩ := List.getElem?_eq_some_iff.mp hk
  exact hi.channels ▸ hlt

theorem WireShaped.of_sameMachine (h : WireShaped s) (hsame : SameMachine s t) : WireShaped t := by
  obtain ⟨hcfg, -, -, -, -, -, hwire, -⟩ := hsame
  unfold WireShaped
  rw [hcfg, hwire]
  exact h

theorem WireShaped.machineEffect (h : WireShaped s) (hi : Inv s) (he : MachineEffect s t) : WireShaped t := by
  obtain ⟨hcfg, -⟩ := effect_time he
  unfold WireShaped
  rw [hcfg]
  rcases effect_wire he with ⟨hwire, -⟩ | ⟨hwire, -⟩ | ⟨-, -, c, bytes, t0, o, drawn, hb, -, hwire⟩
  · exact hwire ▸ h
  · exact hwire ▸ h
  · rw [hwire]
    intro e hmem
    rcases List.mem_append.mp hmem with hold | hnew
    · exact h e hold
    · obtain rfl := List.mem_singleton.mp hnew
      obtain ⟨k, op, hk, hop, -, hhead⟩ := hi.transmitting hb
      exact ⟨(hi.channelInv hk).decodes hop hhead, List.take_prefix .., hi.channel_lt hk⟩

theorem WireShaped.step (h : WireShaped s) (hi : Inv s) (hs : Machine.step s = .next t) : WireShaped t := by
  obtain ⟨-, -, u, hsame, heffect⟩ := step_cases hs
  exact (h.of_sameMachine hsame).machineEffect (hi.of_sameMachine hsame) heffect

end

end Sys2Proof.Machine
end

section
/-! The settle time of every nibble over every step (R63, R250). The guard's holder is at its settle wait until the time
is over, so nothing is issued before. -/

namespace Sys2Proof.Machine

open State

/-! ### A channel at a wait -/

section
variable {s t : State} {c c' : Nat} {k : Channel}

/-- A pop leaves the other channels' records. -/
theorem pop_get_ne (h : c ≠ c') : (s.pop c).chs[c']? = s.chs[c']? := by
  unfold pop
  split
  · exact s.setCh_get_ne _ h
  · rfl

/-- A failure leaves the other channels' records. -/
theorem fail_get_ne (e : Result) (h : c ≠ c') : (s.fail c e).chs[c']? = s.chs[c']? := by
  unfold fail
  split
  · exact setCh_get_ne _ _ h
  · rfl

/-- An instruction leaves the records of the busy channels (R66, R210). -/
theorem InstrEffect.get_busy (h : InstrEffect s t) (hk : s.chs[c]? = some k) (ho : k.op ≠ none) :
    t.chs[c]? = some k := by
  have other {k0 k1 : Channel} (hk0 : s.chs[s.sel]? = some k0) (h0 : k0.op = none) :
      (s.setCh s.sel k1).chs[c]? = some k := by
    rw [s.setCh_get_ne k1, hk]
    rintro rfl
    cases hk.symm.trans hk0
    exact ho h0
  cases h with
  | nothing => exact hk
  | fault r => exact hk
  | init k0 hk0 h0 hl => exact other hk0 h0
  | clear k0 hk0 h0 hl => exact other hk0 h0
  | row k0 row text hk0 h0 hl => exact other hk0 h0
  | assembled k0 p hk0 h0 => exact other hk0 h0
  | buffer k0 pos v rs hk0 h0 hp => exact other hk0 h0

/-- A channel's step leaves the other channels' records. -/
theorem ChannelEffect.get_ne (h : ChannelEffect c s k t) (hne : c ≠ c') : t.chs[c']? = s.chs[c']? := by
  cases h with
  | openTaken => exact pop_get_ne hne
  | openFailed => exact fail_get_ne _ hne
  | granted => exact pop_get_ne hne
  | gaveUp => exact fail_get_ne _ hne
  | issued => exact setCh_get_ne _ _ hne
  | waited => exact pop_get_ne hne
  | released => exact pop_get_ne hne
  | finished => exact s.setCh_get_ne _ hne

/-- A busy channel at a WAIT while it holds the guard: a move leaves its record and its hold, or its deadline is
reached. -/
theorem effect_holder_waiting (hi : Inv s) (h : MachineEffect s t) (hg : s.guard = some c) (hk : s.chs[c]? = some k)
    (ho : k.op ≠ none) {d : Nat} {rest : List MicroOp} (hp : k.prog = .wait d :: rest) :
    (t.guard = some c ∧ t.chs[c]? = some k) ∨ k.deadline ≤ s.now := by
  have hfree := hi.not_in_flight hk (by simp [headBytes, hp])
  have hguard : t.guard = some c := by
    rcases effect_guard hi h with hkept | ⟨hnone, -⟩ | ⟨-, c', k', _, hg', hk', -, hrel | ⟨bytes, t0, _, hb, -⟩⟩
    · exact hkept.trans hg
    · cases hnone.symm.trans hg
    · cases hg'.symm.trans hg
      cases hk'.symm.trans hk
      obtain ⟨p, hp', -⟩ := hrel
      cases hp'.symm.trans hp
    · cases hg'.symm.trans hg
      exact absurd hb (hfree bytes t0)
  cases h with
  | instr h => exact .inl ⟨hguard, h.get_busy hk ho⟩
  | channel c' k' hk' ho' h =>
    by_cases hc : c' = c
    · subst hc
      cases hk'.symm.trans hk
      cases h with
      | waited _ _ _ hd => exact .inr hd
      | issued bytes hp' => simp [headBytes, hp] at hp'
      | openTaken _ hp' => cases hp'.symm.trans hp
      | openFailed _ hp' => cases hp'.symm.trans hp
      | granted _ _ hp' => cases hp'.symm.trans hp
      | gaveUp _ _ hp' => cases hp'.symm.trans hp
      | released _ hp' => cases hp'.symm.trans hp
      | finished _ _ hp' => cases hp'.symm.trans hp
    · exact .inl ⟨hguard, (h.get_ne hc).trans hk⟩
  | bus c' bytes t0 o drawn hb =>
    obtain ⟨-, -, -, -, hg', -⟩ := hi.transmitting hb
    cases hg'.symm.trans hg
    exact absurd hb (hfree bytes t0)
  | time d hd => exact .inl ⟨hguard, hk⟩

/-! ### The settle time -/

theorem Settled.of_sameMachine (h : Settled s) (hsame : SameMachine s t) : Settled t := by
  obtain ⟨agenda, draws, slot, sel, via, rfl⟩ := hsame.exists_eq
  exact { h with }

/-- A nibble that completed with OK puts its channel at the settle wait, armed from now (R131). -/
theorem Inv.settle_wait {bytes : List Byte} {t0 drawn : Nat} {o : TxOutcome} (hi : Inv s)
    (hb : s.bus = .busy c bytes t0) (hsettles : (completion s c bytes t0 o drawn).settles) :
    ∃ (k' : Channel) (rest : List MicroOp), (afterTx (completed s c bytes t0 o drawn) c o).guard = some c ∧
      (afterTx (completed s c bytes t0 o drawn) c o).chs[c]? = some k' ∧ k'.op ≠ none ∧
      k'.prog = .wait s.cfg.tNibble :: rest ∧ k'.deadline = s.now + s.cfg.tNibble := by
  obtain ⟨hlength, hok⟩ := hsettles
  obtain rfl : o = .ok := hok
  obtain ⟨k, op, hk, hop, hg, hhead⟩ := hi.transmitting hb
  have hown := hi.channelInv hk
  obtain ⟨p, hp⟩ : ∃ p, k.prog = .tx bytes :: p := by
    rcases headBytes_cases hhead with htx | ⟨-, rfl⟩
    · exact htx
    · cases hown.buffer.symm.trans hlength
  obtain ⟨-, -, hwait, -⟩ := hown.at_tx hop hp
  obtain ⟨rest, rfl⟩ := List.head?_eq_some_iff.mp hwait
  refine ⟨k.armedWith s.now (.wait s.cfg.tNibble :: rest), rest, by simpa [afterTx] using hg, ?_, by simp [hop], rfl,
    rfl⟩
  show ((completed s c bytes t0 .ok drawn).pop c).chs[c]? = _
  rw [pop_eq (s := completed s c bytes t0 .ok drawn) hk, setCh_get_self (completed s c bytes t0 .ok drawn) hk, hp]
  rfl

/-- A move that leaves the trace and the bus keeps the settle time: the holder's wait goes on, or is over. -/
theorem Settled.of_unchanged (h : Settled s) (hi : Inv s) (he : MachineEffect s t) (hwire : t.wire = s.wire)
    (hbus : t.bus = s.bus) : Settled t := by
  obtain ⟨hcfg, -⟩ := effect_time he
  have hnow := effect_now_le he
  constructor
  case spaced => rw [hcfg, hwire]; exact h.spaced
  case flight => rw [hcfg, hwire, hbus]; exact h.flight
  case waiting =>
    rw [hcfg, hwire, hbus]
    intro e hidle hlast hsettles
    rcases h.waiting e hidle hlast hsettles with hover | ⟨hg, k, rest, hk, ho, hp, hd⟩
    · exact .inl (hover.trans hnow)
    · rcases effect_holder_waiting hi he hg hk ho hp with ⟨hg', hk'⟩ | hreached
      · exact .inr ⟨hg', k, rest, hk', ho, hp, hd⟩
      · exact .inl (hd.trans (hreached.trans hnow))

/-- While the bus is idle and the guard's holder is at a transmission, the settle time of the last nibble is over. -/
theorem Settled.over_at_transmission {bytes : List Byte} {e : WireEvent} (h : Settled s) (hb : s.bus = .idle)
    (hg : s.guard = some c) (hk : s.chs[c]? = some k) (hhead : headBytes k = some bytes)
    (hlast : s.wire.getLast? = some e) (hsettles : e.settles) : e.t1 + s.cfg.tNibble ≤ s.now := by
  rcases h.waiting e hb hlast hsettles with hover | ⟨hg', k', rest, hk', -, hp, -⟩
  · exact hover
  · obtain rfl : c = e.ch := Option.some.inj (hg.symm.trans hg')
    cases hk.symm.trans hk'
    simp [headBytes, hp] at hhead

theorem Settled.busEffect {bytes : List Byte} {t0 : Nat} (h : Settled s) (hi : Inv s) (hb : s.bus = .busy c bytes t0)
    (o : TxOutcome) (drawn : Nat) : Settled (afterTx (completed s c bytes t0 o drawn) c o) := by
  constructor
  case spaced =>
    rw [afterTx_cfg, afterTx_wire]
    intro i e1 e2 h1 h2 hsettles
    rcases neighbours_append_singleton h1 h2 with ⟨h1, h2⟩ | ⟨hlast, rfl⟩
    · exact h.spaced i e1 e2 h1 h2 hsettles
    · exact h.flight c bytes t0 e1 hb hlast hsettles
  case flight =>
    rw [afterTx_bus]
    intro _ _ _ _ hb'
    cases hb'
  case waiting =>
    rw [afterTx_wire, afterTx_cfg]
    intro e _ hlast hsettles
    obtain rfl : completion s c bytes t0 o drawn = e := by simpa using hlast
    obtain ⟨k', rest, hg, hk', ho, hp, hd⟩ := hi.settle_wait hb hsettles
    exact .inr ⟨hg, k', rest, hk', ho, hp, hd.ge⟩

/-- Issuing a transmission keeps the settle time: it was over. -/
theorem Settled.of_issue {bytes : List Byte} (h : Settled s) (hcfg : t.cfg = s.cfg) (hwire : t.wire = s.wire)
    (hbus : t.bus = .busy c bytes s.now) (hb : s.bus = .idle) (hg : s.guard = some c) (hk : s.chs[c]? = some k)
    (hhead : headBytes k = some bytes) : Settled t := by
  constructor
  case spaced => rw [hcfg, hwire]; exact h.spaced
  case flight =>
    rw [hcfg, hwire]
    intro c' bytes' t0 e hb' hlast hsettles
    cases hbus.symm.trans hb'
    exact h.over_at_transmission hb hg hk hhead hlast hsettles
  case waiting =>
    intro e hidle
    cases hbus.symm.trans hidle

theorem Settled.machineEffect (h : Settled s) (hi : Inv s) (he : MachineEffect s t) : Settled t := by
  have unchanged := h.of_unchanged hi he
  cases he with
  | instr he => cases he <;> exact unchanged rfl rfl
  | channel c k hk ho he =>
    cases he with
    | issued bytes hhead _ hg hb _ => exact h.of_issue rfl rfl rfl hb hg hk hhead
    | finished => exact unchanged rfl rfl
    | _ => exact unchanged (by simp) (by simp)
  | bus c bytes t0 o drawn hb _ => exact h.busEffect hi hb o drawn
  | time d _ => exact unchanged rfl rfl

theorem Settled.step (h : Settled s) (hi : Inv s) (hs : Machine.step s = .next t) : Settled t := by
  obtain ⟨-, -, u, hsame, heffect⟩ := step_cases hs
  exact (h.of_sameMachine hsame).machineEffect (hi.of_sameMachine hsame) heffect

end

end Sys2Proof.Machine
end

section
/-! INIT's trace over every step (R179, R180, R243), and what holds of every reachable state (O50). -/

namespace Sys2Proof.Machine

open State

/-! ### What a micro-program still transmits -/

theorem transmissions_append (p q : List MicroOp) : transmissions (p ++ q) = transmissions p ++ transmissions q :=
  List.filterMap_append ..

@[simp] theorem transmissions_tx (bytes : List Byte) (p : List MicroOp) :
    transmissions (.tx bytes :: p) = bytes :: transmissions p := rfl

/-- INIT's micro-program transmits its 12 packets, in both forms of the byte send (R180). -/
theorem transmissions_initProg (cfg : Cfg) : transmissions (initProg cfg) = initPackets cfg := by
  cases h : cfg.sendByteAtomic <;>
    simp [initProg, xferReset8, xferSet4, xferFunctionSet, xferDisplayOn, xferEntryMode, xferClear, clearCore, sb, sbA,
      sbN, sn, nb, h, transmissions, initPackets]

@[simp] theorem initPackets_length (cfg : Cfg) : (initPackets cfg).length = 12 := rfl

/-! ### INIT's channel while it runs -/

/-- What `InitTraced` says of the channel that runs INIT: it failed, or what was transmitted and what its micro-program
still transmits are together the 12 packets, all its own and completed with OK. -/
def InitSoFar (s : State) (c : Nat) (k : Channel) : Prop :=
  k.prog = [.done .fatal] ∨ (s.wire.map (fun e => e.sent) ++ transmissions k.prog = initPackets s.cfg ∧
    ∀ e ∈ s.wire, e.ch = c ∧ e.outcome = .ok)

section
variable {s t v : State} {c : Nat} {k k1 : Channel}

/-- A failed INIT has only its DONE left (R116). -/
theorem InitSoFar.of_failed {e : Result} {now : Nat} (ho : k.op = some .init) :
    InitSoFar t c (k.armedWith now (failTail s.cfg k.op e)) := .inl (by simp [ho, failTail])

/-- INIT goes on past a micro-operation that transmits nothing. -/
theorem InitSoFar.pop {head : MicroOp} {p : List MicroOp} {now : Nat} (h : InitSoFar s c k) (hp : k.prog = head :: p)
    (hhead : transmissions [head] = []) (hdone : head ≠ .done .fatal) (hcfg : t.cfg = s.cfg)
    (hwire : t.wire = s.wire) : InitSoFar t c (k.armedWith now k.prog.tail) := by
  right
  rw [hcfg, hwire]
  rcases h with hfailed | ⟨hsent, hok⟩
  · rw [hp] at hfailed
    exact absurd (List.head_eq_of_cons_eq hfailed) hdone
  · rw [hp, ← List.singleton_append, transmissions_append, hhead, List.nil_append] at hsent
    exact ⟨by simpa [hp] using hsent, hok⟩

/-- INIT goes on past a transmission that completed with OK. -/
theorem InitSoFar.transmitted {bytes : List Byte} {p : List MicroOp} {now : Nat} {e : WireEvent} (h : InitSoFar s c k)
    (hp : k.prog = .tx bytes :: p) (hcfg : t.cfg = s.cfg) (hwire : t.wire = s.wire ++ [e]) (hch : e.ch = c)
    (hsent : e.sent = bytes) (hok : e.outcome = .ok) : InitSoFar t c (k.armedWith now k.prog.tail) := by
  right
  rw [hcfg, hwire]
  rcases h with hfailed | ⟨hpackets, hall⟩
  · cases hp.symm.trans hfailed
  · constructor
    · simpa [hp, hsent] using hpackets
    · intro e' he'
      rcases List.mem_append.mp he' with hold | hnew
      · exact hall e' hold
      · obtain rfl := List.mem_singleton.mp hnew
        exact ⟨hch, hok⟩

/-- A write of one record keeps what is said of INIT's channel when the record written is so and no other channel runs
INIT while the trace grows. -/
theorem InitTraced.during_write (h : InitTraced s) (hk : s.chs[c]? = some k) (hchs : t.chs = s.chs.set c k1)
    (hcfg : t.cfg = s.cfg)
    (hwire : t.wire = s.wire ∨ ∀ (c' : Nat) (k' : Channel), c' ≠ c → s.chs[c']? = some k' → k'.op ≠ some .init)
    (hown : k1.op = some .init → InitSoFar t c k1) :
    ∀ (c' : Nat) (k' : Channel), t.chs[c']? = some k' → k'.op = some .init → InitSoFar t c' k' := by
  intro c' k' hk' ho
  rcases get_cases_of_set hk hchs hk' with ⟨rfl, rfl⟩ | ⟨hne, hk'⟩
  · exact hown ho
  · rcases hwire with hwire | hnone
    · have hold : InitSoFar s c' k' := h.during c' k' hk' ho
      unfold InitSoFar at hold ⊢
      rwa [hcfg, hwire]
    · exact absurd ho (hnone c' k' hne hk')

theorem InitTraced.during_fail (h : InitTraced s) (hk : s.chs[c]? = some k) (hchs : v.chs = s.chs)
    (hcfg : v.cfg = s.cfg)
    (hwire : v.wire = s.wire ∨ ∀ (c' : Nat) (k' : Channel), c' ≠ c → s.chs[c']? = some k' → k'.op ≠ some .init)
    (e : Result) :
    ∀ (c' : Nat) (k' : Channel), (v.fail c e).chs[c']? = some k' → k'.op = some .init →
      InitSoFar (v.fail c e) c' k' := by
  refine h.during_write hk (by rw [fail_chs (hchs ▸ hk), hchs]) (by simpa using hcfg) (by simpa using hwire) ?_
  exact fun ho => .of_failed ho

theorem InitTraced.during_pop {head : MicroOp} {p : List MicroOp} (h : InitTraced s) (hk : s.chs[c]? = some k)
    (hchs : v.chs = s.chs) (hcfg : v.cfg = s.cfg) (hwire : v.wire = s.wire) (hp : k.prog = head :: p)
    (hhead : transmissions [head] = []) (hdone : head ≠ .done .fatal) :
    ∀ (c' : Nat) (k' : Channel), (v.pop c).chs[c']? = some k' → k'.op = some .init → InitSoFar (v.pop c) c' k' := by
  refine h.during_write hk (by rw [pop_chs (hchs ▸ hk), hchs]) (by simpa using hcfg) (.inl (by simpa using hwire)) ?_
  intro ho
  have hold : InitSoFar s c k := h.during c k hk ho
  exact hold.pop hp hhead hdone (by simpa using hcfg) (by simpa using hwire)

theorem InitTraced.during_instr (h : InitTraced s) (he : InstrEffect s t) :
    ∀ (c : Nat) (k : Channel), t.chs[c]? = some k → k.op = some .init → InitSoFar t c k := by
  have write {k0 k1 : Channel} (hk0 : s.chs[s.sel]? = some k0) (h1 : k1.op ≠ some .init) :=
    h.during_write (t := s.setCh s.sel k1) hk0 rfl rfl (.inl rfl) (fun h => absurd h h1)
  cases he with
  | nothing => exact h.during
  | fault r => exact h.during
  | init k hk ho hl =>
    refine h.during_write hk rfl rfl (.inl rfl) fun _ => .inr ?_
    simp [h.before hl, opProg, transmissions_initProg]
  | clear k hk ho hl => exact write hk (by simp)
  | row k row text hk ho hl => exact write hk (by simp)
  | assembled k p hk ho => exact write hk (by simp [ho])
  | buffer k pos v rs hk ho hp => exact write hk (by simp [ho])

theorem InitTraced.during_channel (h : InitTraced s) (hk : s.chs[c]? = some k) (he : ChannelEffect c s k t) :
    ∀ (c' : Nat) (k' : Channel), t.chs[c']? = some k' → k'.op = some .init → InitSoFar t c' k' := by
  cases he with
  | openTaken p hp => exact h.during_pop (v := s.withSession .opened) hk rfl rfl rfl hp rfl (by simp)
  | openFailed p hp => exact h.during_fail hk rfl rfl (.inl rfl) .fatal
  | granted b p hp hg => exact h.during_pop (v := s.withGuard (some c)) hk rfl rfl rfl hp rfl (by simp)
  | gaveUp b p hp hg hd => exact h.during_fail hk rfl rfl (.inl rfl) .timedout
  | issued bytes hp ht hg hb hs =>
    refine h.during_write (k1 := { k with txpend := true }) hk rfl rfl (.inl rfl) fun ho => ?_
    have hold : InitSoFar s c k := h.during c k hk ho
    exact hold
  | waited d p hp hd => exact h.during_pop hk rfl rfl rfl hp rfl (by simp)
  | released p hp => exact h.during_pop (v := s.withGuard none) hk rfl rfl rfl hp rfl (by simp)
  | finished r p hp =>
    exact h.during_write (k1 := { k with result := some r, op := none, prog := [] }) hk rfl rfl (.inl rfl) (by simp)

theorem InitTraced.during_bus {bytes : List Byte} {t0 : Nat} (h : InitTraced s) (hi : Inv s)
    (hb : s.bus = .busy c bytes t0) (o : TxOutcome) (drawn : Nat) :
    ∀ (c' : Nat) (k' : Channel), (afterTx (completed s c bytes t0 o drawn) c o).chs[c']? = some k' →
      k'.op = some .init → InitSoFar (afterTx (completed s c bytes t0 o drawn) c o) c' k' := by
  obtain ⟨k, op, hk, hop, -, hhead⟩ := hi.transmitting hb
  have hnone : ∀ (c' : Nat) (k' : Channel), c' ≠ c → s.chs[c']? = some k' → k'.op ≠ some .init := by
    intro c' k' hne hk' ho'
    cases hop.symm.trans (hi.idle_beside_init hk' ho' hk (Ne.symm hne))
  cases o with
  | ok =>
    refine h.during_write (t := (completed s c bytes t0 .ok drawn).pop c) hk (pop_chs hk) (by simp) (.inr hnone) ?_
    intro ho
    have hold : InitSoFar s c k := h.during c k hk ho
    rcases headBytes_cases hhead with ⟨p, hp⟩ | ⟨⟨p, hp⟩, -⟩
    · exact hold.transmitted hp (by simp) (pop_wire ..) rfl rfl rfl
    · obtain ⟨⟨row, hrow⟩, -⟩ := (hi.channelInv hk).at_txRow ho hp
      cases hrow
  | buserror => exact h.during_fail (v := completed s c bytes t0 .buserror drawn) hk rfl rfl (.inr hnone) .buserror
  | timedout => exact h.during_fail (v := completed s c bytes t0 .timedout drawn) hk rfl rfl (.inr hnone) .timedout

theorem InitTraced.during_effect (h : InitTraced s) (hi : Inv s) (he : MachineEffect s t) :
    ∀ (c : Nat) (k : Channel), t.chs[c]? = some k → k.op = some .init → InitSoFar t c k := by
  cases he with
  | instr he => exact h.during_instr he
  | channel c k hk ho he => exact h.during_channel hk he
  | bus c bytes t0 o drawn hb ha => exact h.during_bus hi hb o drawn
  | time d hd => exact h.during

/-! ### Before INIT and after it -/

/-- A move appends to the trace at most the event of a busy channel. -/
theorem effect_appends (hi : Inv s) (he : MachineEffect s t) : t.wire = s.wire ∨
    ∃ (c : Nat) (k : Channel) (bytes : List Byte) (e : WireEvent), s.chs[c]? = some k ∧ k.op ≠ none ∧
      headBytes k = some bytes ∧ t.wire = s.wire ++ [e] := by
  rcases effect_wire he with ⟨hwire, -⟩ | ⟨hwire, -⟩ | ⟨-, -, c, bytes, t0, o, drawn, hb, -, hwire⟩
  · exact .inl hwire
  · exact .inl hwire
  · obtain ⟨k, op, hk, hop, -, hhead⟩ := hi.transmitting hb
    exact .inr ⟨c, k, bytes, _, hk, by simp [hop], hhead, hwire⟩

/-- The trace of a block before INIT stays empty (R243). -/
theorem InitTraced.before_effect (h : InitTraced s) (hi : Inv s) (he : MachineEffect s t) (hl : t.life = .uninit) :
    t.wire = [] := by
  have huninit : s.life = .uninit := by
    rcases effect_life hi he with hkept | ⟨-, hl', -⟩ | ⟨-, -, -, -, r, -, -, -, -, -, -, -, hl'⟩
    · exact hkept.symm.trans hl
    · cases hl.symm.trans hl'
    · rw [hl] at hl'
      split at hl' <;> cases hl'
  rcases effect_appends hi he with hwire | ⟨c, k, bytes, e, hk, ho, -⟩
  · exact hwire.trans (h.before huninit)
  · exact absurd (hi.idle_when_uninit huninit hk) ho

/-- The trace begins with INIT's 12 packets, all completed with OK (R180). -/
def BeginsWithInit (s : State) : Prop :=
  (s.wire.take 12).map (fun e => e.sent) = initPackets s.cfg ∧ ∀ e ∈ s.wire.take 12, e.outcome = .ok

/-- What is appended to a trace comes after INIT's packets. -/
theorem BeginsWithInit.append (h : BeginsWithInit s) (hcfg : t.cfg = s.cfg) (hwire : s.wire <+: t.wire) :
    BeginsWithInit t := by
  obtain ⟨hsent, -⟩ := id h
  obtain ⟨new, hnew⟩ := hwire
  have hlength := congrArg List.length hsent
  rw [List.length_map, List.length_take, initPackets_length] at hlength
  unfold BeginsWithInit
  rwa [hcfg, ← hnew, List.take_append_of_le_length (by omega)]

/-- INIT that ran to its end with OK transmitted its 12 packets and nothing else. -/
theorem InitSoFar.at_done (h : InitSoFar s c k) (hp : k.prog = [.done .ok]) : BeginsWithInit s := by
  rcases h with hfailed | ⟨hsent, hok⟩
  · cases hp.symm.trans hfailed
  · have hpackets : s.wire.map (fun e => e.sent) = initPackets s.cfg := by simpa [hp, transmissions] using hsent
    have hlength := congrArg List.length hpackets
    rw [List.length_map, initPackets_length] at hlength
    have htake : s.wire.take 12 = s.wire := List.take_of_length_le hlength.le
    exact ⟨htake.symm ▸ hpackets, fun e he => (hok e (htake ▸ he)).2⟩

theorem InitTraced.finished_effect (h : InitTraced s) (hi : Inv s) (he : MachineEffect s t) (hl : t.life = .ready) :
    BeginsWithInit t := by
  obtain ⟨hcfg, -⟩ := effect_time he
  have hwire : s.wire <+: t.wire := by
    rcases effect_appends hi he with hwire | ⟨-, -, -, e, -, -, -, hwire⟩
    · exact hwire ▸ List.prefix_refl _
    · exact hwire ▸ List.prefix_append ..
  have hbegins : BeginsWithInit s := by
    rcases effect_life hi he with hkept | ⟨-, hl', -⟩ | ⟨-, c, k, -, r, p, hk, ho, hp, -, -, -, hl'⟩
    · exact h.finished (hkept.symm.trans hl)
    · cases hl.symm.trans hl'
    · obtain ⟨-, rfl, -⟩ := (hi.channelInv hk).at_done ho hp
      obtain rfl : r = .ok := by
        by_contra hr
        rw [hl, if_neg hr] at hl'
        cases hl'
      have hold : InitSoFar s c k := h.during c k hk ho
      exact hold.at_done hp
  exact hbegins.append hcfg hwire

theorem InitTraced.machineEffect (h : InitTraced s) (hi : Inv s) (he : MachineEffect s t) : InitTraced t where
  before := h.before_effect hi he
  during := h.during_effect hi he
  finished := h.finished_effect hi he

theorem InitTraced.of_sameMachine (h : InitTraced s) (hsame : SameMachine s t) : InitTraced t := by
  obtain ⟨agenda, draws, slot, sel, via, rfl⟩ := hsame.exists_eq
  exact { h with }

theorem InitTraced.step (h : InitTraced s) (hi : Inv s) (hs : Machine.step s = .next t) : InitTraced t := by
  obtain ⟨-, -, u, hsame, heffect⟩ := step_cases hs
  exact (h.of_sameMachine hsame).machineEffect (hi.of_sameMachine hsame) heffect

end

/-! ### Every reachable state -/

/-- What every step keeps and R37, R63, R80 and R180 follow from. -/
structure RunInv (s : State) : Prop where
  inv : Inv s
  ordered : TraceOrdered s
  shaped : WireShaped s
  settled : Settled s
  init : InitTraced s

/-- Every channel of a block after reset has the reset record (R23). -/
theorem resetOf_channel {cfg : Cfg} {c : Nat} {k : Channel} (hk : (State.resetOf cfg).chs[c]? = some k) :
    k = Channel.reset := List.eq_of_mem_replicate (List.mem_of_getElem? hk)

/-- No channel is busy after reset. -/
theorem resetOf_idle {cfg : Cfg} {c : Nat} {k : Channel} {op : Op} (hk : (State.resetOf cfg).chs[c]? = some k) :
    k.op ≠ some op := by
  rw [resetOf_channel hk]
  exact nofun

theorem Inv.resetOf (cfg : Cfg) : Inv (State.resetOf cfg) where
  channels := List.length_replicate
  buffers := fun k hk => by rw [List.eq_of_mem_replicate hk]; rfl
  rows := fun _ _ _ hk ho => absurd ho (resetOf_idle hk)
  holder := nofun
  progs := fun _ _ _ hk ho => absurd ho (resetOf_idle hk)
  flight := nofun
  pending := fun _ _ hk htx => by rw [resetOf_channel hk] at htx; cases htx
  one_init := fun _ _ _ _ hk _ ho _ => absurd ho (resetOf_idle hk)
  init_life := ⟨fun ⟨_, _, hk, ho⟩ => absurd ho (resetOf_idle hk), nofun⟩
  alone := fun _ _ _ hk _ => by rw [resetOf_channel hk]; rfl
  fresh := fun _ => rfl
  ready_open := nofun
  delivered := nofun

theorem RunInv.resetOf (cfg : Cfg) : RunInv (State.resetOf cfg) where
  inv := .resetOf cfg
  ordered := ⟨nofun, nofun, nofun⟩
  shaped := nofun
  settled := ⟨nofun, nofun, nofun⟩
  init := ⟨fun _ => rfl, fun _ _ hk ho => absurd ho (resetOf_idle hk), nofun⟩

theorem RunInv.step {s t : State} (h : RunInv s) (hs : Machine.step s = .next t) : RunInv t where
  inv := h.inv.step hs
  ordered := h.ordered.step hs
  shaped := h.shaped.step h.inv hs
  settled := h.settled.step h.inv hs
  init := h.init.step h.inv hs

theorem RunInv.of_sameMachine {s t : State} (h : RunInv s) (hsame : SameMachine s t) : RunInv t where
  inv := h.inv.of_sameMachine hsame
  ordered := h.ordered.of_sameMachine hsame
  shaped := h.shaped.of_sameMachine hsame
  settled := h.settled.of_sameMachine hsame
  init := h.init.of_sameMachine hsame

theorem Reachable.runInv {s : State} (h : Reachable s) : RunInv s :=
  reachable_induction .resetOf (fun _ _ hsame h => h.of_sameMachine hsame) (fun _ _ h hs => h.step hs) h

/-- Settles O50, by induction over the run. -/
theorem reachableStatesMeetTheSpecInvariants : Obligations.ReachableStatesMeetTheSpecInvariants := by
  unfold Obligations.ReachableStatesMeetTheSpecInvariants
  intro s hreach
  obtain ⟨hinv, hordered, hshaped, hsettled, hinit⟩ := hreach.runInv
  refine ⟨invariantImpliesSpecInvariants s hinv, hordered, hsettled, hshaped, fun hl => ?_⟩
  obtain ⟨hsent, -⟩ := hinit.finished hl
  exact hsent

end Sys2Proof.Machine
end

section
/-! The wire memory (spec/20_memory.md): every step keeps the trace's time order, shape and settle times (O44 to O46), and
appends to it only the transmission of the guard's holder (O51). -/

namespace Sys2Proof.Machine

open State

/-- Settles O44: an event is appended by the completion of the transmission in flight, which started after every event
of the trace. -/
theorem stepKeepsTraceOrder : Obligations.StepKeepsTraceOrder := by
  unfold Obligations.StepKeepsTraceOrder
  intro s t hordered h
  exact hordered.step h

/-- Settles O45: the bytes appended are the head of the transmitting channel's micro-program, which decodes. -/
theorem stepKeepsWireShape : Obligations.StepKeepsWireShape := by
  unfold Obligations.StepKeepsWireShape
  intro s t hi hshaped h
  exact hshaped.step hi h

/-- Settles O46: the guard's holder stays at its settle wait until the time is over, and only the holder issues. The
trace's time order is not needed. -/
theorem stepKeepsSettleTime : Obligations.StepKeepsSettleTime := by
  unfold Obligations.StepKeepsSettleTime
  intro s t hi _ hsettled h
  exact hsettled.step hi h

/-- A move that appends an event to the trace completes the guard holder's transmission in flight (R59, R110). -/
theorem effect_appends_flight {s t : State} (hi : Inv s) (he : MachineEffect s t) : t.wire = s.wire ∨
    ∃ e : WireEvent, t.wire = s.wire ++ [e] ∧ s.guard = some e.ch ∧ s.bus = .busy e.ch e.sent e.t0 ∧ e.t1 = s.now := by
  rcases effect_wire he with ⟨hwire, -⟩ | ⟨hwire, -⟩ | ⟨-, -, c, bytes, t0, o, drawn, hb, -, hwire⟩
  · exact .inl hwire
  · exact .inl hwire
  · obtain ⟨-, -, -, -, hg, -⟩ := hi.transmitting hb
    exact .inr ⟨completion s c bytes t0 o drawn, hwire, hg, hb, rfl⟩

/-- Settles O51: of the moves only the bus agent's writes the trace, and the transmission in flight is the guard
holder's. -/
theorem onlyTheGuardHolderTransmits : Obligations.OnlyTheGuardHolderTransmits := by
  unfold Obligations.OnlyTheGuardHolderTransmits
  intro s t hi h
  obtain ⟨_, _, _, _, _, hsame, heffect⟩ := step_effect h
  have happends := effect_appends_flight (hi.of_sameMachine hsame) heffect
  exact happends

end Sys2Proof.Machine
end

section
/-! The wire bytes (spec/30_encoding.md R70 to R72, R79, R83): the bits of one byte, the expansions of a nibble and of a
controller byte, and what decoding them gives back. -/

namespace Sys2Proof.Machine

/-! ### The bits of a wire byte -/

section
variable (cfg : Cfg) (n : Byte) (rs : Mode) (en : Bool)

/-- Only the nibble carrier reaches bits 7:4: the backlight bit ends at bit 3, below the field. -/
theorem pkt_nibble : (pkt cfg n rs en).extractLsb' 4 4 = n.extractLsb' 4 4 := by
  have hbacklight : ∀ b : BitVec 1, (b.setWidth 8 <<< 3).extractLsb' 4 4 = 0#4 := by decide
  have hmask : n.extractLsb' 4 4 &&& 0xF#4 = n.extractLsb' 4 4 := BitVec.and_allOnes
  cases rs <;> cases en <;>
    simp [pkt, rsBit, enBit, BitVec.extractLsb'_or, BitVec.extractLsb'_and, hbacklight, hmask]

/-- Bits 3:0 of a wire byte are backlight, enable, RW and mode (R70, R71). -/
theorem pkt_low_bits :
    (pkt cfg n rs en).getLsbD 3 = cfg.backlight.getLsbD 0 ∧ (pkt cfg n rs en).getLsbD 2 = en ∧
    (pkt cfg n rs en).getLsbD 1 = false ∧ (pkt cfg n rs en).getLsbD 0 = decide (rs = .data) := by
  cases rs <;> cases en <;> simp [pkt, rsBit, enBit]

/-- The two bytes of a NibblePacket differ in the enable bit only (R72). -/
theorem pkt_xor_pkt : pkt cfg n rs true ^^^ pkt cfg n rs false = 0x04#8 := by
  ext i hi
  cases rs <;> simp [pkt, rsBit, enBit] <;> interval_cases i <;> simp

/-- A wire byte with the backlight on (R72). -/
theorem pkt_of_backlight_on (h : cfg.backlight = 1#1) :
    pkt cfg n rs en = (n &&& 0xF0#8) ||| (if en then 0x0C#8 else 0x08#8) ||| rsBit rs := by
  cases en <;> simp [pkt, h, enBit, BitVec.or_assoc]

end

theorem hi_low_bits (v : Byte) : hi v &&& 0x0F#8 = 0#8 := by
  simp [hi, BitVec.and_assoc]

theorem lo_low_bits (v : Byte) : lo v &&& 0x0F#8 = 0#8 := by
  simp [lo, BitVec.and_assoc]

/-- Settles O1, bit by bit; the configured nibbles have clear low bits by R8. -/
theorem packetByteLayout : Obligations.PacketByteLayout := by
  unfold Obligations.PacketByteLayout
  intro cfg n rs en
  obtain ⟨hbacklight, hen, hrw, hmode⟩ := pkt_low_bits cfg n rs en
  refine ⟨pkt_nibble cfg n rs en, hbacklight, hen, hrw, hmode, fun v => ⟨hi_low_bits v, lo_low_bits v⟩,
    fun hvalid => ?_⟩
  obtain ⟨-, hreset, h4bit⟩ := cfgValid_iff.mp hvalid
  exact ⟨hreset, h4bit⟩

/-- Settles O2: the expansions are R72's formulas, and the two bytes of a packet differ in EN. -/
theorem nibblePacketsAndControllerBytes : Obligations.NibblePacketsAndControllerBytes := by
  unfold Obligations.NibblePacketsAndControllerBytes
  intro cfg n v rs
  refine ⟨rfl, pkt_xor_pkt cfg n rs, rfl, rfl, rfl, fun h => ?_⟩
  simp [nib, pkt_of_backlight_on cfg n rs _ h]

/-! ### Decoding the wire -/

/-- Decoding a run of controller bytes gives them back in order (R83). -/
theorem decodeWireBytes_flatMap_byte4 (cfg : Cfg) (rs : Mode) (f : Nat → Byte) (l : List Nat) :
    decodeWireBytes (l.flatMap (fun i => byte4 cfg (f i) rs)) = l.map (fun i => (rs, f i)) := by
  induction l with
  | nil => rfl
  | cons i l ih => rw [List.flatMap_cons, byte4_decode, ih, List.map_cons]

/-- Settles O3: a transfer is one controller byte, a row the address command and a run of 16. -/
theorem wireDecodingInvertsEncoding : Obligations.WireDecodingInvertsEncoding := by
  unfold Obligations.WireDecodingInvertsEncoding
  refine ⟨fun _ _ _ _ _ => rfl, fun cfg v rs => ?_, fun cfg row t => ?_⟩
  · exact byte4_decode cfg v rs []
  · rw [rowBytes, byte4_decode, decodeWireBytes_flatMap_byte4]

/-- Settles O21: R79's default bytes, each evaluated. -/
theorem defaultCommandBytes : Obligations.DefaultCommandBytes := by
  unfold Obligations.DefaultCommandBytes
  decide

end Sys2Proof.Machine
end

section
/-! The decoder and the encoder of the three encoding spaces (spec/30_encoding.md R74 to R79): what each space's decoder
reads is said once, as the relation between its bytes and the instruction, and both directions (O5, O6) go through it. -/

namespace Sys2Proof.Machine

/-! ### Operand fields -/

/-- The mode survives its operand byte (log 4). -/
theorem modeOfBit_modeByte (rs : Mode) : modeOfBit ((modeByte rs).getLsbD 0) = rs := by
  cases rs <;> rfl

/-- A cell's operand byte is below 16 (log 4). -/
theorem setWidth_cell_lt (i : BitVec 4) : (i.setWidth 8).toNat < 16 := by
  rw [BitVec.toNat_setWidth_of_le (by decide)]
  exact i.isLt

theorem rowInRange_iff {row : BitVec 2} : rowInRange row = true ↔ row = 0#2 ∨ row = 1#2 := by
  revert row
  decide

/-- A request word without the context and the reserved bits is its row and its operation (R74). -/
theorem requestWord_fields {w : Byte} (hctx : ctxBit w = false) (hres : reservedField w = 0#2) :
    w = (opField w).setWidth 8 ||| ((rowField w).setWidth 8 <<< 3) := by
  revert w
  decide

/-! ### Requests -/

/-- The request words that name an instruction, and the instruction each names with the bytes that follow (R74, R75; the
operands of the internal rows as in log 4). -/
inductive RequestReads (t : List Byte) : Byte → Instr → Prop
  | init : RequestReads t 0x01#8 .init
  | clear : RequestReads t 0x02#8 .clear
  | writeRow (row : BitVec 2) (h : rowInRange row = true) :
      RequestReads t (0x03#8 ||| (row.setWidth 8 <<< 3)) (.writeRow row t)
  | sendNibble :
      RequestReads t 0x04#8 (.sendNibble (t.getD 0 0#8) (modeOfBit ((t.getD 1 0#8).getLsbD 0)))
  | sendByte :
      RequestReads t 0x05#8 (.sendByte (t.getD 0 0#8) (modeOfBit ((t.getD 1 0#8).getLsbD 0)))

theorem withRowZero_eq_instr_iff {w : Byte} {i j : Instr} :
    withRowZero w i = .instr j ↔ rowField w = 0#2 ∧ i = j := by
  unfold withRowZero
  split <;> simp_all

theorem RequestReads.decode {t : List Byte} {w : Byte} {i : Instr} (h : RequestReads t w i) :
    decodeRequest w t = .instr i := by
  cases h with
  | writeRow row hrow =>
    rcases rowInRange_iff.mp hrow with rfl | rfl <;> rfl
  | _ => rfl

/-- Where the row must be zero, an accepted word is its operation alone (R74). -/
theorem withRowZero_eq_instr {w : Byte} {i j : Instr}
    (hword : w = (opField w).setWidth 8 ||| ((rowField w).setWidth 8 <<< 3)) (h : withRowZero w i = .instr j) :
    w = (opField w).setWidth 8 ∧ i = j := by
  obtain ⟨hrow, hij⟩ := withRowZero_eq_instr_iff.mp h
  rw [hrow] at hword
  exact ⟨by simpa using hword, hij⟩

/-- The request decoder answers an instruction for these words only (R75, R77). -/
theorem decodeRequest_eq_instr_iff {w : Byte} {t : List Byte} {i : Instr} :
    decodeRequest w t = .instr i ↔ RequestReads t w i := by
  refine ⟨fun h => ?_, RequestReads.decode⟩
  unfold decodeRequest at h
  split at h
  case isTrue => cases h
  case isFalse hctx =>
  split at h
  case isTrue => cases h
  case isFalse hres =>
  have hword := requestWord_fields (by simpa using hctx) (not_not.mp hres)
  split at h
  case isTrue hop =>
    obtain ⟨hw, rfl⟩ := withRowZero_eq_instr hword h
    exact (hop ▸ hw) ▸ .init
  split at h
  case isTrue hop =>
    obtain ⟨hw, rfl⟩ := withRowZero_eq_instr hword h
    exact (hop ▸ hw) ▸ .clear
  split at h
  case isTrue hop =>
    split at h
    case isTrue hrow =>
      cases h
      generalize rowField w = row at hword hrow
      exact (hop ▸ hword) ▸ .writeRow row hrow
    case isFalse => cases h
  split at h
  case isTrue hop =>
    obtain ⟨hw, rfl⟩ := withRowZero_eq_instr hword h
    exact (hop ▸ hw) ▸ .sendNibble
  split at h
  case isTrue hop =>
    obtain ⟨hw, rfl⟩ := withRowZero_eq_instr hword h
    exact (hop ▸ hw) ▸ .sendByte
  case isFalse => cases h

/-! ### Nibble commands and controller bytes -/

theorem decodeNibble_eq_instr_iff {code : Byte} {i : Instr} :
    decodeNibble code = .instr i ↔ code = 0x03#8 ∧ i = .hdReset8 ∨ code = 0x02#8 ∧ i = .hdSet4 := by
  unfold decodeNibble
  split
  · simp_all [eq_comm]
  · split <;> simp_all [eq_comm]

/-- The 9-bit codes that name an instruction, with the cell byte that follows, and the instruction each names (R78, R79;
the two bytes and the cell as in log 4). -/
inductive CodeReads (cell : Byte) : Byte → Byte → Instr → Prop
  | functionSet : CodeReads cell 0x28#8 0x00#8 .hdFunctionSet
  | displayOn : CodeReads cell 0x0C#8 0x00#8 .hdDisplayOn
  | entryMode : CodeReads cell 0x06#8 0x00#8 .hdEntryMode
  | clear : CodeReads cell 0x01#8 0x00#8 .hdClear
  | setDdramRow0 : CodeReads cell 0x80#8 0x00#8 .hdSetDdramRow0
  | setDdramRow1 : CodeReads cell 0xC0#8 0x00#8 .hdSetDdramRow1
  | writeData (v : Byte) (h : cell.toNat < 16) : CodeReads cell v 0x01#8 (.hdWriteData v (cell.setWidth 4))

/-- The byte decoder answers an instruction for these codes only (R79). -/
theorem decodeByte_eq_instr_iff {v rs cell : Byte} {i : Instr} :
    decodeByte v rs cell = .instr i ↔ CodeReads cell v rs i := by
  constructor
  · intro h
    unfold decodeByte at h
    split at h
    case isTrue hrs =>
      subst hrs
      split at h <;> cases h
      exact .writeData v ‹_›
    case isFalse =>
      split at h
      case isTrue => cases h
      case isFalse hrs =>
        obtain rfl := not_not.mp hrs
        split_ifs at h <;> cases h
        all_goals
          subst v
          constructor
  · intro h
    cases h with
    | writeData _ hcell => simp [decodeByte, hcell]
    | _ => rfl

/-! ### Both directions -/

/-- Everything `decode` reads: the bytes of each space that reach that space's decoder (R74, R78; log 4). -/
theorem decode_cases {sp : Space} {bytes : List Byte} {i : Instr} (h : decode sp bytes = .instr i) :
    (∃ w t, sp = .request ∧ bytes = w :: t ∧ RequestReads t w i) ∨
    (∃ code, sp = .nibble ∧ bytes = [code] ∧ decodeNibble code = .instr i) ∨
    ∃ v rs rest cell, sp = .byte ∧ bytes = v :: rs :: rest ∧ CodeReads cell v rs i := by
  unfold decode at h
  split at h
  · exact .inl ⟨_, _, rfl, rfl, decodeRequest_eq_instr_iff.mp h⟩
  · exact .inr (.inl ⟨_, rfl, rfl, h⟩)
  · exact .inr (.inr ⟨_, _, _, _, rfl, rfl, decodeByte_eq_instr_iff.mp h⟩)
  · exact .inr (.inr ⟨_, _, _, _, rfl, rfl, decodeByte_eq_instr_iff.mp h⟩)
  all_goals cases h

/-- Settles O5: each encoding is a word its space's decoder reads as that instruction, and the operand bytes give the
operands back. -/
theorem decodeInvertsEncode : Obligations.DecodeInvertsEncode := by
  unfold Obligations.DecodeInvertsEncode
  intro i hwf
  cases i with
  | writeRow row text => exact (RequestReads.writeRow row hwf).decode
  | sendNibble n rs =>
    have hread : decode .request [0x04#8, n, modeByte rs] =
        .instr (.sendNibble n (modeOfBit ((modeByte rs).getLsbD 0))) := RequestReads.sendNibble.decode
    rw [modeOfBit_modeByte] at hread
    exact hread
  | sendByte v rs =>
    have hread : decode .request [0x05#8, v, modeByte rs] =
        .instr (.sendByte v (modeOfBit ((modeByte rs).getLsbD 0))) := RequestReads.sendByte.decode
    rw [modeOfBit_modeByte] at hread
    exact hread
  | hdWriteData d cell =>
    have hread := decodeByte_eq_instr_iff.mpr (.writeData d (setWidth_cell_lt cell))
    rw [BitVec.setWidth_setWidth_of_le _ (by decide), BitVec.setWidth_eq] at hread
    exact hread
  | _ => rfl

/-- Settles O6: by the words each decoder reads. -/
theorem decodedIsWellFormed : Obligations.DecodedIsWellFormed := by
  unfold Obligations.DecodedIsWellFormed
  intro sp bytes i h
  rcases decode_cases h with ⟨w, t, rfl, rfl, hreads⟩ | ⟨code, rfl, rfl, hcode⟩ | ⟨v, rs, rest, cell, rfl, rfl, hreads⟩
  · cases hreads with
    | writeRow row hrow => exact ⟨rfl, hrow, rfl, nofun⟩
    | _ => exact ⟨rfl, rfl, rfl, nofun⟩
  · rcases decodeNibble_eq_instr_iff.mp hcode with ⟨rfl, rfl⟩ | ⟨rfl, rfl⟩ <;> exact ⟨rfl, rfl, rfl, nofun⟩
  · cases hreads <;> exact ⟨rfl, rfl, rfl, fun _ => rfl⟩

/-- Settles O7: closed words, each evaluated. -/
theorem knownWordsDecode : Obligations.KnownWordsDecode := by
  unfold Obligations.KnownWordsDecode
  decide

end Sys2Proof.Machine
end

section
/-! The request port (spec/30_encoding.md R77): the refusals in the rule's order, what a refusal does on an idle channel
(R212), and the four accepted words. -/

namespace Sys2Proof.Machine

open State

/-! ### The refusals of the decoder, in order -/

section
variable {w : Byte} (t : List Byte)

theorem decodeRequest_isrContext (hctx : ctxBit w = true) :
    decodeRequest w t = .reject (.port .isrContext) := by
  simp [decodeRequest, hctx]

theorem decodeRequest_reserved (hctx : ctxBit w = false) (hres : reservedField w ≠ 0#2) :
    decodeRequest w t = .reject (.port .badRequest) := by
  simp [decodeRequest, hctx, hres]

theorem decodeRequest_badRow (hctx : ctxBit w = false) (hres : reservedField w = 0#2) (hop : opField w = 3#3)
    (hrow : 2 ≤ (rowField w).toNat) : decodeRequest w t = .reject (.port .badRow) := by
  simp [decodeRequest, hctx, hres, hop, rowInRange, Nat.not_lt.mpr hrow]

theorem decodeRequest_rowNotZero (hctx : ctxBit w = false) (hres : reservedField w = 0#2)
    (hop : opField w = 1#3 ∨ opField w = 2#3) (hrow : rowField w ≠ 0#2) :
    decodeRequest w t = .reject (.port .badRequest) := by
  rcases hop with hop | hop <;> simp [decodeRequest, hctx, hres, hop, withRowZero, hrow]

/-- A word of no request operation is refused by the decoder, or is one of the two internal codes (R75). -/
theorem decodeRequest_noRequest (hctx : ctxBit w = false) (hres : reservedField w = 0#2) (hinit : opField w ≠ 1#3)
    (hclear : opField w ≠ 2#3) (hrow : opField w ≠ 3#3) :
    decodeRequest w t = .reject (.port .badRequest) ∨
    (∃ n rs, decodeRequest w t = .instr (.sendNibble n rs)) ∨ ∃ v rs, decodeRequest w t = .instr (.sendByte v rs) := by
  simp only [decodeRequest, withRowZero, hctx, hres, hinit, hclear, hrow, ne_eq, not_true_eq_false,
    Bool.false_eq_true, if_false]
  split
  case isTrue =>
    split
    · exact .inr (.inl ⟨_, _, rfl⟩)
    · exact .inl rfl
  split
  case isTrue =>
    split
    · exact .inr (.inr ⟨_, _, rfl⟩)
    · exact .inl rfl
  case isFalse => exact .inl rfl

end

/-! ### What a refusal does -/

section
variable {s : State} {c : Nat} {k : Channel} {w : Byte} {t : List Byte} {r : FaultReason}

/-- On an idle channel a refusal raises its reason and does nothing else (R212, R214). -/
theorem refuseRequest_of_idleAt (h : s.idleAt c k) (r : FaultReason) : ∃ s',
    refuseRequest r (s.presentOn c .port) = .next s' ∧ SameMachine { s with fault := some r } s' := by
  obtain ⟨hfault, hlife, hk, hop⟩ := h
  refine ⟨_, onIdle_next _ (halted?_eq_none.mpr ⟨hfault, hlife⟩) hk hop, ?_⟩
  exact ⟨rfl, rfl, rfl, rfl, rfl, rfl, rfl, raiseFault_first _ r hfault, rfl, rfl⟩

/-- What R77 means by a refusal: presenting the word raises its reason and changes nothing else. -/
theorem State.idleAt.refused (h : s.idleAt c k)
    (hpresent : present .port .request c (w :: t) s = refuseRequest r (s.presentOn c .port)) :
    ∃ s', present .port .request c (w :: t) s = .next s' ∧ SameMachine { s with fault := some r } s' :=
  hpresent ▸ refuseRequest_of_idleAt h r

/-- A word the decoder refuses is refused at the port. -/
theorem present_of_reject (h : decodeRequest w t = .reject (.port r)) :
    present .port .request c (w :: t) s = refuseRequest r (s.presentOn c .port) := by
  simp [present, decode, h]

/-- An internal code is refused at the port as a word of no request operation is (R75, R77). -/
theorem present_of_noRequest (hctx : ctxBit w = false) (hres : reservedField w = 0#2) (hinit : opField w ≠ 1#3)
    (hclear : opField w ≠ 2#3) (hrow : opField w ≠ 3#3) :
    present .port .request c (w :: t) s = refuseRequest .badRequest (s.presentOn c .port) := by
  rcases decodeRequest_noRequest t hctx hres hinit hclear hrow with h | ⟨n, rs, h⟩ | ⟨v, rs, h⟩
  · exact present_of_reject h
  · simp [present, decode, h, exec, execSendNibble]
  · simp [present, decode, h, exec, execSendByte]

end

/-! ### The accepted words -/

section
variable {w : Byte} {t : List Byte}

theorem decode_request_eq_instr_iff {i : Instr} : decode .request (w :: t) = .instr i ↔ RequestReads t w i :=
  decodeRequest_eq_instr_iff

theorem decode_eq_init_iff : decode .request (w :: t) = .instr .init ↔ w = 0x01#8 := by
  rw [decode_request_eq_instr_iff]
  exact ⟨by rintro ⟨⟩; rfl, by rintro rfl; exact .init⟩

theorem decode_eq_clear_iff : decode .request (w :: t) = .instr .clear ↔ w = 0x02#8 := by
  rw [decode_request_eq_instr_iff]
  exact ⟨by rintro ⟨⟩; rfl, by rintro rfl; exact .clear⟩

/-- WRITE_ROW takes the bytes after its word as its text, and its word carries the row (R74, R75). -/
theorem decode_eq_writeRow_iff {row : BitVec 2} {t' : List Byte} :
    decode .request (w :: t) = .instr (.writeRow row t') ↔
      w = 0x03#8 ||| (row.setWidth 8 <<< 3) ∧ t' = t ∧ (row = 0#2 ∨ row = 1#2) := by
  rw [decode_request_eq_instr_iff, ← rowInRange_iff]
  exact ⟨by rintro ⟨⟩; exact ⟨rfl, rfl, ‹_›⟩, by rintro ⟨rfl, rfl, hrow⟩; exact .writeRow row hrow⟩

end

/-- Settles O4: each clause of R77 is one refusal of the decoder or one accepted word. -/
theorem requestDecodingTotal : Obligations.RequestDecodingTotal := by
  unfold Obligations.RequestDecodingTotal
  intro s c k w t hidle
  refine ⟨fun hctx => hidle.refused (present_of_reject (decodeRequest_isrContext t hctx)),
    fun hctx hres => hidle.refused (present_of_reject (decodeRequest_reserved t hctx hres)),
    fun hctx hres hinit hclear hrow => hidle.refused (present_of_noRequest hctx hres hinit hclear hrow),
    fun hctx hres hop hrow => hidle.refused (present_of_reject (decodeRequest_badRow t hctx hres hop hrow)),
    fun hctx hres hop hrow => hidle.refused (present_of_reject (decodeRequest_rowNotZero t hctx hres hop hrow)),
    decode_eq_init_iff, decode_eq_clear_iff, ?_, ?_, fun row t' h => (decode_eq_writeRow_iff.mp h).2⟩
  · rw [decode_eq_writeRow_iff]; simp
  · rw [decode_eq_writeRow_iff]; simp

end Sys2Proof.Machine
end

section
/-! The moves of a step (spec/40_bus_session_guard.md R100): which move the next step makes and how it is made (O24),
states without a step (O26), the micro-operations (O29 to O33, O35, O36), failure (O28), and the steps of the bus agent
(O34) and of the time agent (O37). -/

namespace Sys2Proof.Machine

open State

/-! ### The move a step makes -/

section
variable {s t u : State} {c : Nat} {k : Channel}

theorem step_of_live (hv : cfgValid s.cfg = true) (hf : s.fault = none) (hl : s.life ≠ .fatal) :
    step s = proceed s := by
  simp [step, hv, halted?_eq_none.mpr ⟨hf, hl⟩]

theorem step_of_halted {f : Fault} (hv : cfgValid s.cfg = true) (hh : s.halted? = some f) : step s = .fault f := by
  simp [step, hv, hh]

/-- With an instruction placed the step presents it (log 5). -/
theorem step_of_slot {p : Presented} (hv : cfgValid s.cfg = true) (hf : s.fault = none) (hl : s.life ≠ .fatal)
    (hp : s.slot = some p) : step s = present p.via p.space p.ch p.bytes s.emptySlot := by
  simp [step_of_live hv hf hl, proceed, hp]

/-- With nothing placed and nothing on the agenda the step makes the free move (log 2). -/
theorem step_of_empty_agenda (hv : cfgValid s.cfg = true) (hf : s.fault = none) (hl : s.life ≠ .fatal)
    (hslot : s.slot = none) (ha : s.agenda = []) : step s = perform (Config.freeMove s.draws) s.countDraw := by
  simp [step_of_live hv hf hl, proceed, hslot, nextMove, ha]

/-- A step that takes a move off the agenda makes it. -/
theorem State.takes.step_eq {m : Move} (h : s.takes m u) : step s = perform m u := by
  obtain ⟨hv, hf, hl, hslot, ha, hu⟩ := h
  simp [step_of_live hv hf hl, proceed, hslot, nextMove, ha, ← hu]

/-- A channel's move that its rule enables is made. -/
theorem State.takes.runs {pick : Pick} (h : s.takes (.run c pick) u) (hstep : channelStep c pick u = some t) :
    step s = .next t := h.step_eq.trans (congrArg (orPass u) hstep)

/-- A channel's move that its rule does not enable is passed over (log 7). -/
theorem State.takes.passes {pick : Pick} (h : s.takes (.run c pick) u) (hstep : channelStep c pick u = none) :
    step s = .next u := h.step_eq.trans (congrArg (orPass u) hstep)

/-- An instruction the decoder reads is executed where it is presented (R211). -/
theorem present_of_instr {via : Via} {sp : Space} {bytes : List Byte} {i : Instr} (h : decode sp bytes = .instr i) :
    present via sp c bytes s = exec i (s.presentOn c via) := by
  simp [present, h]

theorem decodeTableWord_eq_some {nbits w : Nat} {i : Instr} (h : decodeTableWord nbits w = some i) :
    decode (tableSpace nbits) (tableBytes nbits w) = .instr i := by
  unfold decodeTableWord at h
  split at h
  · rename_i j hj
    cases h
    exact hj
  · cases h

end

/-- Settles O24: the slot comes before the agenda and the agenda before the free move; what is presented is decoded and
executed. -/
theorem stepRunsDecodedInstruction : Obligations.StepRunsDecodedInstruction := by
  unfold Obligations.StepRunsDecodedInstruction
  refine ⟨?_, ?_, ?_, ?_⟩
  · intro s u c w t i htakes hdecode
    exact htakes.step_eq.trans (present_of_instr hdecode)
  · intro s p i hv hf hl hslot hdecode
    exact (step_of_slot hv hf hl hslot).trans (present_of_instr hdecode)
  · intro s nbits w i hv hf hl hword
    have hstep := step_of_slot (s := s.withFetchWord nbits w) hv hf hl rfl
    exact hstep.trans (present_of_instr (decodeTableWord_eq_some hword))
  · intro s hv hf hl hslot ha
    exact step_of_empty_agenda hv hf hl hslot ha

/-! ### States without a step -/

/-- In a state without a step every instruction stops as the state does: each goes through `onIdle` (R100). -/
theorem exec_of_halted {s : State} {f : Fault} (i : Instr) (hh : s.halted? = some f) : exec i s = .fault f := by
  cases i with
  | sendNibble n rs =>
    simp only [exec, execSendNibble]
    split <;> exact onIdle_halted _ hh
  | sendByte v rs =>
    simp only [exec, execSendByte]
    split <;> exact onIdle_halted _ hh
  | _ => exact onIdle_halted _ hh

/-- Settles O26: the step and every instruction look at `halted?` first. -/
theorem haltedStatesHaveNoStep : Obligations.HaltedStatesHaveNoStep := by
  unfold Obligations.HaltedStatesHaveNoStep
  intro s i hv
  have stops {f : Fault} (hh : s.halted? = some f) : step s = .fault f ∧ exec i s = .fault f :=
    ⟨step_of_halted hv hh, exec_of_halted i hh⟩
  exact ⟨fun r hf => stops (halted?_fault hf), fun hf hl => stops (halted?_fatal hf hl)⟩

/-! ### Pop and failure -/

/-- A pop arms the rest of the micro-program and changes nothing else (R103). -/
theorem State.busyAt.pop_eq {s : State} {c : Nat} {k : Channel} {head : MicroOp} {p : List MicroOp}
    (h : s.busyAt c k) (hp : k.prog = head :: p) :
    s.pop c = { s with chs := s.chs.set c (k.armedWith s.now p) } := by
  obtain ⟨hk, -⟩ := h
  rw [Machine.pop_eq hk, hp]
  rfl

/-- A failure arms the failure tail and changes nothing else but the guard (R116). -/
theorem fail_of_tail {s : State} {c : Nat} {k : Channel} {e : Result} {p : List MicroOp} (hk : s.chs[c]? = some k)
    (hp : failTail s.cfg k.op e = p) :
    s.fail c e = { s with guard := (s.fail c e).guard, chs := s.chs.set c (k.armedWith s.now p) } := by
  rw [fail_guard, fail_eq hk, hp]
  rfl

/-- Settles O28: the failure tail of each operation, armed. -/
theorem failureReleasesAndReplacesProgram : Obligations.FailureReleasesAndReplacesProgram := by
  unfold Obligations.FailureReleasesAndReplacesProgram
  intro s c k e hk
  refine ⟨fail_guard s c e, fun ho => ?_, fun ho => ?_, fun row ho => ?_⟩
  · exact fail_of_tail hk (p := [.done .fatal]) (by rw [ho]; rfl)
  · exact fail_of_tail hk (p := [.wait s.cfg.tClear, .done e]) (by rw [ho]; rfl)
  · exact fail_of_tail hk (p := [.done e]) (by rw [ho]; rfl)

/-! ### A channel's step, by the head of its micro-program -/

section
variable {s : State} {c : Nat} {k : Channel} {p : List MicroOp} (pick : Pick)

theorem channelStep_openBus (h : s.busyAt c k) (hp : k.prog = .openBus :: p) :
    channelStep c .take s = some ((s.withSession .opened).pop c) ∧
      channelStep c .giveUp s = some (s.fail c .fatal) := by
  obtain ⟨hk, ho⟩ := h
  simp [channelStep, hk, ho, hp]

theorem channelStep_acq_take {b : Nat} (h : s.busyAt c k) (hp : k.prog = .acq b :: p) :
    channelStep c .take s = if s.guard = none then some ((s.withGuard (some c)).pop c) else none := by
  obtain ⟨hk, ho⟩ := h
  simp [channelStep, hk, ho, hp]

theorem channelStep_acq_giveUp {b : Nat} (h : s.busyAt c k) (hp : k.prog = .acq b :: p) :
    channelStep c .giveUp s = if s.guard ≠ some c ∧ k.deadline ≤ s.now then some (s.fail c .timedout) else none := by
  obtain ⟨hk, ho⟩ := h
  simp [channelStep, hk, ho, hp]

theorem channelStep_tx {bytes : List Byte} (h : s.busyAt c k) (hp : k.prog = .tx bytes :: p) :
    channelStep c pick s = issueTx c k bytes s := by
  obtain ⟨hk, ho⟩ := h
  simp [channelStep, hk, ho, hp]

theorem channelStep_txRow (h : s.busyAt c k) (hp : k.prog = .txRow :: p) :
    channelStep c pick s = issueTx c k k.rowbuf s := by
  obtain ⟨hk, ho⟩ := h
  simp [channelStep, hk, ho, hp]

theorem channelStep_wait {d : Nat} (h : s.busyAt c k) (hp : k.prog = .wait d :: p) :
    channelStep c pick s = if k.deadline ≤ s.now then some (s.pop c) else none := by
  obtain ⟨hk, ho⟩ := h
  simp [channelStep, hk, ho, hp]

theorem channelStep_rel (h : s.busyAt c k) (hp : k.prog = .rel :: p) :
    channelStep c pick s = some ((s.withGuard none).pop c) := by
  obtain ⟨hk, ho⟩ := h
  simp [channelStep, hk, ho, hp]

theorem channelStep_done {r : Result} (h : s.busyAt c k) (hp : k.prog = .done r :: p) :
    channelStep c pick s = some (finish c k r s) := by
  obtain ⟨hk, ho⟩ := h
  simp [channelStep, hk, ho, hp]

/-- The four conditions of R109 let a transmission be issued. -/
theorem issueTx_enabled (bytes : List Byte) (htx : k.txpend = false) (hg : s.guard = some c) (hb : s.bus = .idle)
    (ho : s.session = .opened) :
    issueTx c k bytes s = some ((s.withBus (.busy c bytes s.now)).setCh c { k with txpend := true }) :=
  if_pos ⟨htx, hg, hb, ho⟩

/-- Each of them missing keeps it back. -/
theorem issueTx_not_enabled (bytes : List Byte)
    (h : k.txpend = true ∨ s.guard ≠ some c ∨ s.bus ≠ .idle ∨ s.session = .closed) : issueTx c k bytes s = none := by
  refine if_neg ?_
  rintro ⟨htx, hg, hb, ho⟩
  rcases h with h | h | h | h
  · cases htx.symm.trans h
  · exact h hg
  · exact h hb
  · cases ho.symm.trans h

end

/-- Settles O29: the draw picks one of OPEN's two outcomes. -/
theorem openSucceedsOrIsFatal : Obligations.OpenSucceedsOrIsFatal := by
  unfold Obligations.OpenSucceedsOrIsFatal
  intro s u c k p hbusy hp
  obtain ⟨hopen, hfail⟩ := channelStep_openBus hbusy hp
  refine ⟨fun htakes => ?_, fun htakes => htakes.runs hfail⟩
  rw [htakes.runs hopen, hbusy.pop_eq (s := u.withSession .opened) hp]
  rfl

/-- Settles O30: the grant looks at the guard alone. -/
theorem guardGrantedWhenFree : Obligations.GuardGrantedWhenFree := by
  unfold Obligations.GuardGrantedWhenFree
  intro s u c k b p htakes hbusy hp
  have hstep := channelStep_acq_take hbusy hp
  constructor
  · intro hfree
    rw [htakes.runs (hstep.trans (if_pos hfree)), hbusy.pop_eq (s := u.withGuard (some c)) hp]
    rfl
  · intro hheld
    exact htakes.passes (hstep.trans (if_neg hheld))

/-- Settles O31: the timeout looks at the deadline, and at the guard only not to give up one's own. -/
theorem guardTimeoutFromTheDeadline : Obligations.GuardTimeoutFromTheDeadline := by
  unfold Obligations.GuardTimeoutFromTheDeadline
  refine ⟨fun s u c k b p htakes hbusy hp => ?_, fun k now b p => armedDeadline_acq now b k.deadline p⟩
  have hstep := channelStep_acq_giveUp hbusy hp
  constructor
  · intro hg hd
    exact htakes.runs (hstep.trans (if_pos ⟨hg, hd⟩))
  · intro hnot
    refine htakes.passes (hstep.trans (if_neg ?_))
    rintro ⟨hg, hd⟩
    exact hnot.elim hg hd.not_gt

/-- Settles O32: REL writes the guard and pops. -/
theorem releaseFreesTheGuard : Obligations.ReleaseFreesTheGuard := by
  unfold Obligations.ReleaseFreesTheGuard
  intro s u c k pick p htakes hbusy hp
  rw [htakes.runs (channelStep_rel pick hbusy hp), hbusy.pop_eq (s := u.withGuard none) hp]
  rfl

/-- Settles O33: a nibble and the row are issued alike, under the four conditions of R109. -/
theorem transmissionIssuedUnderGuard : Obligations.TransmissionIssuedUnderGuard := by
  unfold Obligations.TransmissionIssuedUnderGuard
  intro s u c k pick p bytes htakes hbusy hhead
  have hstep : channelStep c pick u = issueTx c k bytes u := by
    rcases hhead with hp | ⟨hp, rfl⟩
    · exact channelStep_tx pick hbusy hp
    · exact channelStep_txRow pick hbusy hp
  constructor
  · intro htx hg hb ho
    exact htakes.runs (hstep.trans (issueTx_enabled bytes htx hg hb ho))
  · intro hnot
    exact htakes.passes (hstep.trans (issueTx_not_enabled bytes hnot))

/-- Settles O35: the end of a WAIT looks at the deadline alone. -/
theorem waitEndsAtOrAfterItsDeadline : Obligations.WaitEndsAtOrAfterItsDeadline := by
  unfold Obligations.WaitEndsAtOrAfterItsDeadline
  refine ⟨fun s u c k pick d p htakes hbusy hp => ?_, fun k now d p => armedDeadline_wait now d k.deadline p⟩
  have hstep := channelStep_wait pick hbusy hp
  constructor
  · intro hd
    rw [htakes.runs (hstep.trans (if_pos hd)), hbusy.pop_eq hp]
  · intro hd
    exact htakes.passes (hstep.trans (if_neg hd.not_ge))

/-- Settles O36: the answer DONE logs is its channel's, with the request that channel kept. -/
theorem doneFinishesTheOperation : Obligations.DoneFinishesTheOperation := by
  unfold Obligations.DoneFinishesTheOperation
  intro s u c k pick op r p htakes hk hop hp
  have hbusy : u.busyAt c k := ⟨hk, by simp [hop]⟩
  have hrequest : k.request = some ⟨op, k.text⟩ := by simp [Channel.request, hop]
  have hlife : lifeAfter k.op r u.life = if op = .init then (if r = .ok then .ready else .fatal) else u.life := by
    simp [lifeAfter, hop]
  have hresults (c' : Nat) : (finish c k r u).resultsOf c' =
      u.resultsOf c' ++ if c = c' then [⟨c, some ⟨op, k.text⟩, r⟩] else [] := by
    rw [← hrequest]
    exact logAnswer_resultsOf _ _ c'
  refine ⟨finish c k r u, htakes.runs (channelStep_done pick hbusy hp), ?_, ?_, fun c' hne => ?_⟩
  · rw [← hlife, ← hrequest]
    rfl
  · simp [hresults]
  · simp [hresults, hne.symm]

/-! ### The bus agent and the time agent -/

section
variable {s t u : State} {c : Nat} {bytes : List Byte} {t0 : Nat} {o : TxOutcome} {drawn delta : Nat}

/-- An outcome R110 allows completes the transmission in flight. -/
theorem State.takes.completes (h : s.takes (.complete o drawn) u) (hb : u.bus = .busy c bytes t0)
    (ha : outcomeAllowed u o bytes t0 drawn = true) :
    step s = .next (afterTx (completed u c bytes t0 o drawn) c o) := by
  have hstep : busStep o drawn u = some (afterTx (completed u c bytes t0 o drawn) c o) := by
    simp [busStep, hb, ha, completed]
  exact h.step_eq.trans (congrArg (orPass u) hstep)

/-- An outcome R110 does not allow is passed over (log 7). -/
theorem State.takes.not_completes (h : s.takes (.complete o drawn) u) (hb : u.bus = .busy c bytes t0)
    (ha : outcomeAllowed u o bytes t0 drawn = false) : step s = .next u := by
  have hstep : busStep o drawn u = none := by simp [busStep, hb, ha]
  exact h.step_eq.trans (congrArg (orPass u) hstep)

/-- Without a transmission in flight there is nothing to complete. -/
theorem State.takes.nothing_to_complete (h : s.takes (.complete o drawn) u) (hb : u.bus = .idle) :
    step s = .next u := by
  have hstep : busStep o drawn u = none := by simp [busStep, hb]
  exact h.step_eq.trans (congrArg (orPass u) hstep)

/-- A failure that delivers more than was sent is not allowed (R110). -/
theorem outcomeAllowed_too_many (ho : o ≠ .ok) (hn : bytes.length < drawn) :
    outcomeAllowed s o bytes t0 drawn = false := by
  cases o with
  | ok => exact absurd rfl ho
  | buserror => simp [outcomeAllowed, hn]
  | timedout => simp [outcomeAllowed, hn]

theorem timeStep_of_busy (hd : 1 ≤ delta) (hbusy : ∃ c k, s.busyAt c k) :
    timeStep delta s = some (s.advance delta) := by
  obtain ⟨c, k, hk, ho⟩ := hbusy
  refine if_pos ⟨hd, List.any_eq_true.mpr ⟨k, List.mem_of_getElem? hk, ?_⟩⟩
  exact Option.isSome_iff_ne_none.mpr ho

theorem timeStep_eq_none (h : delta = 0 ∨ ∀ k ∈ s.chs, k.op = none) : timeStep delta s = none := by
  refine if_neg ?_
  rintro ⟨hd, hany⟩
  obtain ⟨k, hk, hsome⟩ := List.any_eq_true.mp hany
  rcases h with h | h
  · omega
  · simp [h k hk] at hsome

end

/-- Settles O34: the outcomes R110 allows, each with the event it appends, and the ones it does not. -/
theorem busCompletion : Obligations.BusCompletion := by
  unfold Obligations.BusCompletion
  intro s u o n htakes
  refine ⟨fun c bytes t0 hb => ⟨?_, ?_, ?_, ?_, ?_⟩, htakes.nothing_to_complete⟩
  · rintro rfl
    have hall : bytes.take (deliveredCount .ok bytes n) = bytes := List.take_length
    rw [htakes.completes hb rfl, completed, hall]
    rfl
  · rintro rfl hn
    exact htakes.completes hb (by simp [outcomeAllowed, hn])
  · rintro rfl hn hd
    exact htakes.completes hb (by simp [outcomeAllowed, hn, hd])
  · intro ho hn
    exact htakes.not_completes hb (outcomeAllowed_too_many ho hn)
  · rintro rfl hd
    exact htakes.not_completes hb (by simp [outcomeAllowed, hd])

/-- Settles O37: the time agent's step is enabled by a busy channel and a positive amount. -/
theorem timeAdvancesWhileBusy : Obligations.TimeAdvancesWhileBusy := by
  unfold Obligations.TimeAdvancesWhileBusy
  intro s u delta htakes
  constructor
  · intro hd hbusy
    exact htakes.step_eq.trans (congrArg (orPass u) (timeStep_of_busy hd hbusy))
  · intro hnot
    exact htakes.step_eq.trans (congrArg (orPass u) (timeStep_eq_none hnot))

end Sys2Proof.Machine
end

section
/-! The bus and the guard over steps and runs: no transmission in flight is cancelled (O52), and in a fair run every
acquisition ends (O60). A channel at ACQ keeps its record until it moves itself, so from its deadline on its timeout is
enabled for ever, and fairness takes it. -/

namespace Sys2Proof.Machine

open State

/-! ### A transmission in flight -/

/-- Settles O52: of the moves that write the bus, issuing needs it idle and a completion appends the event of what was
in flight. -/
theorem transmissionsAreNotCancelled : Obligations.TransmissionsAreNotCancelled := by
  unfold Obligations.TransmissionsAreNotCancelled
  intro s t c bytes t0 hb h
  obtain ⟨_, _, _, _, _, -, heffect⟩ := step_effect h
  rcases effect_wire heffect with ⟨-, hkept⟩ | ⟨-, hidle, -⟩ | ⟨hidle, -, c', bytes', t0', o, drawn, hb', -, hwire⟩
  · exact .inl (hkept.trans hb)
  · cases hb.symm.trans hidle
  · cases hb.symm.trans hb'
    exact .inr ⟨hidle, _, hwire, rfl, rfl, rfl⟩

/-! ### One move of a run -/

section
variable {s t : State} {m : Move} {c : Nat} {k : Channel} {b : Nat} {p : List MicroOp}

theorem Inv.perform (hi : Inv s) (h : perform m s = .next t) : Inv t := by
  obtain ⟨u, hsame, heffect⟩ := perform_cases h
  exact (hi.of_sameMachine hsame).machineEffect heffect

theorem perform_now_le (h : perform m s = .next t) : s.now ≤ t.now := by
  obtain ⟨u, ⟨-, hnow, -⟩, heffect⟩ := perform_cases h
  exact hnow ▸ effect_now_le heffect

/-- A move is made, or is passed over (log 7). -/
theorem orPass_cases {r : Option State} (h : orPass s r = .next t) : r = some t ∨ t = s := by
  cases r with
  | none => cases h; exact .inr rfl
  | some u => cases h; exact .inl rfl

/-- A completion leaves the records of the other channels (R110). -/
theorem afterTx_get_ne {c' : Nat} (o : TxOutcome) (hne : c ≠ c') : (afterTx s c o).chs[c']? = s.chs[c']? := by
  cases o with
  | ok => exact pop_get_ne hne
  | buserror => exact fail_get_ne _ hne
  | timedout => exact fail_get_ne _ hne

/-- A busy channel that transmits nothing keeps its record under every move but its own (R66, R216). -/
theorem State.busyAt.perform (hbusy : s.busyAt c k) (hi : Inv s) (hhead : headBytes k = none)
    (hother : ∀ pick, m ≠ .run c pick) (h : perform m s = .next t) : t.busyAt c k := by
  obtain ⟨hk, ho⟩ := hbusy
  refine ⟨?_, ho⟩
  cases m with
  | issue c' w text => exact (present_cases h).get_busy hk ho
  | run c' pick =>
    rcases orPass_cases h with hstep | rfl
    · have hne : c' ≠ c := fun hc => hother pick (hc ▸ rfl)
      obtain ⟨k', -, -, heffect⟩ := channelStep_cases hstep
      exact (heffect.get_ne hne).trans hk
    · exact hk
  | complete o drawn =>
    rcases orPass_cases h with hstep | rfl
    · obtain ⟨c', bytes, t0, hb, -, rfl⟩ := busStep_cases hstep
      have hne : c' ≠ c := fun hc => hi.not_in_flight hk hhead bytes t0 (hc ▸ hb)
      exact (afterTx_get_ne o hne).trans hk
    · exact hk
  | tick delta =>
    rcases orPass_cases h with hstep | rfl
    · obtain ⟨-, rfl⟩ := timeStep_cases hstep
      exact hk
    · exact hk

/-- From its deadline on a channel at ACQ may time out: it does not hold the guard (R107, R118). -/
theorem enabled_giveUp (hi : Inv s) (hh : s.halted? = none) (hbusy : s.busyAt c k) (hp : k.prog = .acq b :: p)
    (hd : k.deadline ≤ s.now) : enabled (.run c .giveUp) s = true := by
  obtain ⟨hk, ho⟩ := id hbusy
  obtain ⟨op, hop⟩ := Option.ne_none_iff_exists'.mp ho
  obtain ⟨hg, -⟩ := (hi.channelInv hk).at_acq hop hp
  simp [enabled, hh, channelStep_acq_giveUp hbusy hp, hg, hd]

end

/-! ### Runs -/

section
variable {states : Nat → State} {moves : Nat → Move}

/-- Agents may step in every state of a run. -/
theorem IsRun.live (hrun : IsRun states moves) (n : Nat) : (states n).halted? = none :=
  Option.isNone_iff_eq_none.mp (Bool.and_elim_left (hrun.allowed n))

theorem IsRun.inv (hrun : IsRun states moves) (hi : Inv (states 0)) (n : Nat) : Inv (states n) := by
  induction n with
  | zero => exact hi
  | succ n ih => exact ih.perform (hrun.next n)

theorem IsRun.now_mono (hrun : IsRun states moves) : Monotone (fun n => (states n).now) :=
  monotone_nat_of_le_succ fun n => perform_now_le (hrun.next n)

/-- A busy channel that transmits nothing stands where it is as long as it makes no move of its own. -/
theorem IsRun.stays {n c : Nat} {k : Channel} (hrun : IsRun states moves) (hi : Inv (states 0))
    (hbusy : (states n).busyAt c k) (hhead : headBytes k = none)
    (hother : ∀ m, n ≤ m → (states m).busyAt c k → ∀ pick, moves m ≠ .run c pick) :
    ∀ m, n ≤ m → (states m).busyAt c k := by
  intro m hm
  induction m, hm using Nat.le_induction with
  | base => exact hbusy
  | succ m hm ih => exact ih.perform (hrun.inv hi m) hhead (hother m hm ih) (hrun.next m)

end

/-- Settles O60: a channel that never moved at its ACQ would stand there for ever, its deadline past, and its timeout,
enabled from then on, would be taken. -/
theorem acquisitionEnds : Obligations.AcquisitionEnds := by
  unfold Obligations.AcquisitionEnds
  intro states moves n c k b p hrun hfair hi hbusy hp
  by_contra hnever
  have hstays : ∀ m, n ≤ m → (states m).busyAt c k :=
    hrun.stays hi hbusy (by simp [headBytes, hp]) fun m hm hbusy' pick hmove =>
      hnever ⟨m, pick, k, hm, hmove, hbusy', hp⟩
  obtain ⟨late, hlate⟩ := hfair.unbounded k.deadline
  have henabled : ∀ m, max n late ≤ m → enabled (.run c .giveUp) (states m) = true := by
    intro m hm
    have hd : k.deadline ≤ (states m).now := hlate.trans (hrun.now_mono (le_of_max_le_right hm))
    exact enabled_giveUp (hrun.inv hi m) (hrun.live m) (hstays m (le_of_max_le_left hm)) hp hd
  obtain ⟨m, hm, hmove⟩ := hfair.channel c .giveUp _ henabled
  have hnm := le_of_max_le_left hm
  exact hnever ⟨m, .giveUp, k, hnm, hmove, hstays m hnm, hp⟩

end Sys2Proof.Machine
end

section
/-! The nibble encoder (spec/41_nibble_encoder.md R131 to R135): what assembling a transfer on an idle channel does, and
the micro-operations of the nibble and the byte transfer. -/

namespace Sys2Proof.Machine

/-! ### Assembling on an idle channel -/

/-- An instruction presented on an idle channel does its body there (R100, R210). -/
theorem State.idleAt.onIdle {s : State} {k : Channel} (h : s.idleAt s.sel k) (body : Channel → State) :
    onIdle s body = .next (body k) := by
  obtain ⟨hfault, hlife, hk, hop⟩ := h
  exact onIdle_next body (halted?_eq_none.mpr ⟨hfault, hlife⟩) hk hop

/-- Assembling on an idle channel adds the transfer to its micro-program and writes nothing else (R12; log 5). -/
theorem State.idleAt.assemble {s : State} {k : Channel} (h : s.idleAt s.sel k) (xfer : Cfg → List MicroOp) :
    assemble xfer s = .next { s with chs := s.chs.set s.sel { k with prog := k.prog ++ xfer s.cfg } } :=
  h.onIdle _

theorem exec_sendNibble_internal {s : State} (h : s.via = .internal) (n : Byte) (rs : Mode) :
    exec (.sendNibble n rs) s = assemble (fun cfg => sn cfg n rs) s := by
  simp [exec, execSendNibble, h]

theorem exec_sendByte_internal {s : State} (h : s.via = .internal) (v : Byte) (rs : Mode) :
    exec (.sendByte v rs) s = assemble (fun cfg => sb cfg v rs) s := by
  simp [exec, execSendByte, h]

/-! ### The transfers -/

/-- `SN` is one guard hold of one nibble and its settle wait (R131, R132). -/
theorem sn_eq (cfg : Cfg) (n : Byte) (rs : Mode) :
    sn cfg n rs = [.acq cfg.bCmd, .tx (nib cfg n rs), .wait cfg.tNibble, .rel] := rfl

/-- `SB_A` is one guard hold of both nibbles, the high one first (R134). -/
theorem sbA_eq (cfg : Cfg) (v : Byte) (rs : Mode) :
    sbA cfg v rs = [.acq cfg.bCmd, .tx (nib cfg (hi v) rs), .wait cfg.tNibble,
      .tx (nib cfg (lo v) rs), .wait cfg.tNibble, .rel] := rfl

/-- `SB_N` is one guard hold for each nibble, the high one first (R135). -/
theorem sbN_eq (cfg : Cfg) (v : Byte) (rs : Mode) :
    sbN cfg v rs = [.acq cfg.bCmd, .tx (nib cfg (hi v) rs), .wait cfg.tNibble, .rel,
      .acq cfg.bCmd, .tx (nib cfg (lo v) rs), .wait cfg.tNibble, .rel] := rfl

/-- Settles O16: presented inside the block, SEND_NIBBLE assembles `SN`. -/
theorem sendNibbleAssembles : Obligations.SendNibbleAssembles := by
  unfold Obligations.SendNibbleAssembles
  intro s k n rs hidle hvia
  rw [exec_sendNibble_internal hvia, hidle.assemble, sn_eq, nib]

/-- Settles O17: presented inside the block, SEND_BYTE assembles `SB`, which is `SB_A` or `SB_N` by configuration. -/
theorem sendByteAssembles : Obligations.SendByteAssembles := by
  unfold Obligations.SendByteAssembles
  intro s k v rs hidle hvia
  rw [exec_sendByte_internal hvia, hidle.assemble, sb, sbA_eq, sbN_eq]

end Sys2Proof.Machine
end

section
/-! The row transmitter (spec/42_row_transmitter.md R150 to R155): the cells of a row, the buffer as its address command
and its cells one after the other, what accepting a WRITE_ROW does with it, and the row commands that assemble it. -/

namespace Sys2Proof.Machine

open State

/-! ### The cells of a row -/

section
variable (cfg : Cfg) (t : List Byte)

theorem cutText_eq_self_iff : cutText t = t ↔ ∀ b ∈ t, b ≠ 0#8 := by
  simp [cutText, List.takeWhile_eq_self_iff]

theorem ne_zero_of_mem_cutText {b : Byte} (h : b ∈ cutText t) : b ≠ 0#8 := by
  simpa using List.mem_takeWhile_imp h

/-- The text ends at its first zero byte, whatever follows it (R81). -/
theorem cutText_append_zero {pre : List Byte} (rest : List Byte) (h : ∀ b ∈ pre, b ≠ 0#8) :
    cutText (pre ++ 0#8 :: rest) = pre := by
  have hkept : ∀ b ∈ pre, (b != 0#8) = true := fun b hb => bne_iff_ne.mpr (h b hb)
  rw [cutText, List.takeWhile_append_of_pos hkept, List.takeWhile_cons_of_neg (by decide), List.append_nil]

/-- What is left of a cut text has no zero byte to cut at. -/
theorem cutText_take_cutText (n : Nat) : cutText ((cutText t).take n) = (cutText t).take n :=
  (cutText_eq_self_iff _).mpr fun _ hb => ne_zero_of_mem_cutText t (List.mem_of_mem_take hb)

theorem cell_of_getElem? {i : Nat} {b : Byte} (h : (cutText t)[i]? = some b) : cell cfg t i = b := by
  simp [cell, h]

theorem cell_of_length_le {i : Nat} (h : (cutText t).length ≤ i) : cell cfg t i = cfg.pad :=
  List.getD_eq_default _ _ h

/-- A cell reads the bytes up to its own index only. -/
theorem cell_take_cutText {i n : Nat} (h : i < n) : cell cfg ((cutText t).take n) i = cell cfg t i := by
  simp [cell, cutText_take_cutText, List.getElem?_take_of_lt h]

/-- The first `n` cells are the cut text, padded on the right or truncated (R151, R155). -/
theorem map_cell_range (n : Nat) :
    (List.range n).map (cell cfg t) = (cutText t ++ List.replicate (n - (cutText t).length) cfg.pad).take n := by
  refine List.ext_getElem (by simp; omega) fun i hi _ => ?_
  rw [List.length_map, List.length_range] at hi
  rw [List.getElem_map, List.getElem_range, List.getElem_take]
  by_cases h : i < (cutText t).length
  · rw [List.getElem_append_left h, cell_of_getElem? cfg t (List.getElem?_eq_getElem h)]
  · rw [List.getElem_append_right (Nat.le_of_not_lt h), List.getElem_replicate,
      cell_of_length_le cfg t (Nat.le_of_not_lt h)]

end

/-! ### The buffer, cell by cell -/

/-- The address command of a row and its first `n` cells: what stands in the buffer after `n` of R152's cell writes. -/
def rowPrefix (cfg : Cfg) (row : BitVec 2) (t : List Byte) (n : Nat) : List Byte :=
  byte4 cfg (rowCmd cfg row) .command ++ (List.range n).flatMap (fun i => byte4 cfg (cell cfg t i) .data)

section
variable (cfg : Cfg) (row : BitVec 2) (t : List Byte)

theorem rowBytes_eq_rowPrefix : rowBytes cfg row t = rowPrefix cfg row t 16 := rfl

@[simp] theorem rowPrefix_zero : rowPrefix cfg row t 0 = byte4 cfg (rowCmd cfg row) .command := by
  simp [rowPrefix]

theorem rowPrefix_succ (n : Nat) :
    rowPrefix cfg row t (n + 1) = rowPrefix cfg row t n ++ byte4 cfg (cell cfg t n) .data := by
  simp [rowPrefix, List.range_succ]

@[simp] theorem rowPrefix_length (n : Nat) : (rowPrefix cfg row t n).length = 4 + 4 * n := by
  induction n with
  | zero => simp
  | succ n ih => rw [rowPrefix_succ, List.length_append, ih, byte4_length]; omega

/-- Later cells stand after the earlier ones. -/
theorem rowPrefix_isPrefix {m n : Nat} (h : m ≤ n) : rowPrefix cfg row t m <+: rowPrefix cfg row t n := by
  induction n, h using Nat.le_induction with
  | base => exact List.prefix_refl _
  | succ n _ ih => exact ih.trans (rowPrefix_succ cfg row t n ▸ List.prefix_append _ _)

/-- A RowTransaction starts with its address-set command (R152). -/
theorem rowBytes_take_command : (rowBytes cfg row t).take 4 = byte4 cfg (rowCmd cfg row) .command :=
  List.take_left' (byte4_length ..)

/-- Cell `i` stands at bytes 4+4i to 7+4i of a RowTransaction (R152). -/
theorem rowBytes_cell {i : Nat} (hi : i < 16) :
    ((rowBytes cfg row t).drop (4 + 4 * i)).take 4 = byte4 cfg (cell cfg t i) .data := by
  obtain ⟨rest, hrest⟩ := rowPrefix_isPrefix cfg row t hi
  rw [rowBytes_eq_rowPrefix, ← hrest, rowPrefix_succ, List.append_assoc, List.drop_left' (rowPrefix_length ..),
    List.take_left' (byte4_length ..)]

/-- Only the first 16 bytes of the cut text reach the buffer (R151). -/
theorem rowBytes_take_cutText : rowBytes cfg row ((cutText t).take 16) = rowBytes cfg row t := by
  rw [rowBytes, rowBytes]
  refine congrArg _ (List.flatMap_congr fun i hi => ?_)
  rw [cell_take_cutText cfg t (List.mem_range.mp hi)]

/-- A RowTransaction decodes to the address command and the cells (R83, R155). -/
theorem decodeWireBytes_rowBytes : decodeWireBytes (rowBytes cfg row t) =
    (.command, rowCmd cfg row) :: ((List.range 16).map (cell cfg t)).map (fun b => (.data, b)) := by
  obtain ⟨-, -, hrow⟩ := wireDecodingInvertsEncoding
  rw [hrow, List.map_map]
  rfl

end

/-- Settles O8: the cut ends at the first zero byte, and a cell reads what is left by index or pads. -/
theorem cellContents : Obligations.CellContents := by
  unfold Obligations.CellContents
  refine ⟨fun pre rest h => ⟨cutText_append_zero rest h, (cutText_eq_self_iff pre).mpr h⟩, ?_, ?_, ?_, rfl⟩
  · exact fun cfg t _ _ h => cell_of_getElem? cfg t h
  · exact fun cfg t _ h => cell_of_length_le cfg t h
  · exact fun cfg row t => (rowBytes_take_cutText cfg row t).symm

/-- Settles O10: the decoded cells are the cut text padded and truncated to 16; below 16 bytes nothing is truncated,
from 16 on nothing is padded. -/
theorem rowDecodesToItsText : Obligations.RowDecodesToItsText := by
  unfold Obligations.RowDecodesToItsText
  intro cfg row t
  rw [decodeWireBytes_rowBytes, map_cell_range]
  refine ⟨rowBytes_length cfg row t, rfl, fun hshort => ?_, fun hlong => ?_⟩
  · rw [List.tail_cons, List.take_of_length_le]
    simp
    omega
  · rw [List.tail_cons, Nat.sub_eq_zero_of_le hlong, List.replicate_zero, List.append_nil]

/-! ### Accepting a WRITE_ROW -/

/-- A WRITE_ROW of a display row is accepted on an idle channel of a ready block, its buffer built (R152, R211). -/
theorem State.idleAt.exec_writeRow {s : State} {k : Channel} {row : BitVec 2} (h : s.idleAt s.sel k)
    (hready : s.life = .ready) (hrow : row = 0#2 ∨ row = 1#2) (t : List Byte) :
    exec (.writeRow row t) s =
      .next (accept s { k with rowbuf := rowBytes s.cfg row t } { op := .writeRow row, text := t }) := by
  refine (h.onIdle _).trans ?_
  simp only [rowInRange_iff.mpr hrow, hready, if_true]

/-- Settles O13: acceptance arms the head of WRITE_ROW's micro-program, its ACQ of the row budget. -/
theorem writeRowAccepted : Obligations.WriteRowAccepted := by
  unfold Obligations.WriteRowAccepted
  intro s k row t hidle hready hrow
  exact hidle.exec_writeRow hready hrow t

/-- Settles O9: the buffer acceptance writes is the RowTransaction, read four bytes at a time. -/
theorem rowBufferBuiltAtAcceptance : Obligations.RowBufferBuiltAtAcceptance := by
  unfold Obligations.RowBufferBuiltAtAcceptance
  intro s k row t hidle hready hrow
  obtain ⟨-, -, hk, -⟩ := id hidle
  refine ⟨_, _, hidle.exec_writeRow hready hrow t, setCh_get_self s hk, ?_, ?_, fun i hi => ?_⟩
  · exact rowBytes_length s.cfg row t
  · exact rowBytes_take_command s.cfg row t
  · exact rowBytes_cell s.cfg row t hi

/-! ### Executing instructions one after the other -/

section
variable {s t : State}

@[simp] theorem execAll_singleton (i : Instr) : execAll [i] s = exec i s := by
  rw [execAll]
  split <;> simp [execAll, *]

theorem execAll_append {is js : List Instr} (h : execAll is s = .next t) : execAll (is ++ js) s = execAll js t := by
  induction is generalizing s with
  | nil => cases h; rfl
  | cons i is ih =>
    rw [execAll] at h
    rw [List.cons_append, execAll]
    split at h
    · exact ih h
    · cases h
    · cases h

end

/-! ### Writing the row buffer of an idle channel -/

/-- The channel record with this row buffer. -/
def Channel.withRowbuf (k : Channel) (buf : List Byte) : Channel := { k with rowbuf := buf }

@[simp] theorem withRowbuf_op (k : Channel) (buf : List Byte) : (k.withRowbuf buf).op = k.op := rfl

@[simp] theorem withRowbuf_rowbuf (k : Channel) (buf : List Byte) : (k.withRowbuf buf).rowbuf = buf := rfl

@[simp] theorem withRowbuf_withRowbuf (k : Channel) (buf buf' : List Byte) :
    (k.withRowbuf buf).withRowbuf buf' = k.withRowbuf buf' := rfl

/-- Overwriting right behind a part already written extends that part. -/
theorem writeAt_append_drop {bs old : List Byte} {pos : Nat} (h : bs.length = pos) (new : List Byte) :
    writeAt (bs ++ old.drop pos) pos new = bs ++ new ++ old.drop (pos + new.length) := by
  subst h
  rw [writeAt, List.take_left, ← List.drop_drop, List.drop_left, List.drop_drop]

section
variable {s : State} {c : Nat} {k k' : Channel}

/-- Of two writes of one channel record the later stays. -/
@[simp] theorem State.setCh_setCh : (s.setCh c k).setCh c k' = s.setCh c k' := by
  simp [State.setCh]

/-- A channel stays idle when its record is replaced by an idle one. -/
theorem State.idleAt.setCh (h : s.idleAt c k) (ho : k'.op = none) : (s.setCh c k').idleAt c k' := by
  obtain ⟨hfault, hlife, hk, -⟩ := h
  exact ⟨hfault, hlife, s.setCh_get_self hk, ho⟩

theorem State.idleAt.withRowbuf (h : s.idleAt c k) (buf : List Byte) :
    (s.setCh c (k.withRowbuf buf)).idleAt c (k.withRowbuf buf) := by
  obtain ⟨-, -, -, ho⟩ := id h
  exact h.setCh ho

/-- On an idle channel a row command overwrites its four bytes of the row buffer (R188 to R190; log 5). -/
theorem State.idleAt.writeRowbuf (h : s.idleAt s.sel k) (pos : Nat) (v : Cfg → Byte) (rs : Mode) :
    writeRowbuf pos v rs s =
      .next (s.setCh s.sel (k.withRowbuf (writeAt k.rowbuf pos (byte4 s.cfg (v s.cfg) rs)))) :=
  h.onIdle _

theorem State.idleAt.exec_hdWriteData (h : s.idleAt s.sel k) (d : Byte) (i : BitVec 4) :
    exec (.hdWriteData d i) s =
      .next (s.setCh s.sel (k.withRowbuf (writeAt k.rowbuf (4 + 4 * i.toNat) (byte4 s.cfg d .data)))) :=
  h.writeRowbuf (4 + 4 * i.toNat) (fun _ => d) .data

end

/-! ### The row commands build the buffer -/

/-- The instructions that write the first `n` cells of a row (R190). -/
def cellCommands (cfg : Cfg) (t : List Byte) (n : Nat) : List Instr :=
  (List.range n).map (fun i => .hdWriteData (cell cfg t i) (BitVec.ofNat 4 i))

@[simp] theorem cellCommands_zero (cfg : Cfg) (t : List Byte) : cellCommands cfg t 0 = [] := rfl

theorem cellCommands_succ (cfg : Cfg) (t : List Byte) (n : Nat) :
    cellCommands cfg t (n + 1) = cellCommands cfg t n ++ [.hdWriteData (cell cfg t n) (BitVec.ofNat 4 n)] := by
  simp [cellCommands, List.range_succ]

section
variable {s : State} {k : Channel} {row : BitVec 2} {n : Nat}

/-- A cell command behind the part of a row already in the buffer extends that part by its cell (R152, R190). -/
theorem State.idleAt.exec_next_cell (h : s.idleAt s.sel k) (t old : List Byte) (hn : n < 16)
    (hbuffer : k.rowbuf = rowPrefix s.cfg row t n ++ old.drop (4 + 4 * n)) :
    exec (.hdWriteData (cell s.cfg t n) (BitVec.ofNat 4 n)) s =
      .next (s.setCh s.sel (k.withRowbuf (rowPrefix s.cfg row t (n + 1) ++ old.drop (4 + 4 * (n + 1))))) := by
  have hcell : (BitVec.ofNat 4 n).toNat = n := Nat.mod_eq_of_lt hn
  rw [h.exec_hdWriteData, hcell, hbuffer, writeAt_append_drop (rowPrefix_length ..), ← rowPrefix_succ, byte4_length,
    Nat.add_assoc, ← Nat.mul_succ]

/-- After the address command and `n` cell commands the buffer starts with the row's first `n` cells. -/
theorem State.idleAt.execAll_cellCommands {address : Instr} (h : s.idleAt s.sel k) (t : List Byte)
    (haddress : exec address s =
      .next (s.setCh s.sel (k.withRowbuf (writeAt k.rowbuf 0 (byte4 s.cfg (rowCmd s.cfg row) .command)))))
    (hn : n ≤ 16) :
    execAll (address :: cellCommands s.cfg t n) s =
      .next (s.setCh s.sel (k.withRowbuf (rowPrefix s.cfg row t n ++ k.rowbuf.drop (4 + 4 * n)))) := by
  induction n with
  | zero =>
    rw [cellCommands_zero, execAll_singleton, haddress, rowPrefix_zero]
    rfl
  | succ n ih =>
    have hnext := (h.withRowbuf (rowPrefix s.cfg row t n ++ k.rowbuf.drop (4 + 4 * n))).exec_next_cell t k.rowbuf
      (Nat.lt_of_succ_le hn) rfl
    rw [cellCommands_succ, ← List.cons_append, execAll_append (ih (Nat.le_of_succ_le hn)), execAll_singleton]
    simpa using hnext

/-- The address command of a row and its 16 cell commands write every byte of the buffer (R152). -/
theorem State.idleAt.execAll_rowCommands {address : Instr} (h : s.idleAt s.sel k) (hbuffer : k.rowbuf.length = 68)
    (t : List Byte)
    (haddress : exec address s =
      .next (s.setCh s.sel (k.withRowbuf (writeAt k.rowbuf 0 (byte4 s.cfg (rowCmd s.cfg row) .command))))) :
    execAll (address :: cellCommands s.cfg t 16) s =
      .next (s.setCh s.sel (k.withRowbuf (rowBytes s.cfg row t))) := by
  rw [h.execAll_cellCommands t haddress le_rfl, List.drop_of_length_le (by omega), List.append_nil,
    rowBytes_eq_rowPrefix]

end

/-- Settles O23: row by row, the address command is the row's own and the cell commands are the same. -/
theorem rowIsAssembledFromCommands : Obligations.RowIsAssembledFromCommands := by
  unfold Obligations.RowIsAssembledFromCommands
  intro s k text hidle hbuffer
  have haddress0 := hidle.writeRowbuf 0 (fun cfg => cfg.rowCmd0) .command
  have haddress1 := hidle.writeRowbuf 0 (fun cfg => cfg.rowCmd1) .command
  exact ⟨hidle.execAll_rowCommands (row := 0#2) hbuffer text haddress0,
    hidle.execAll_rowCommands (row := 1#2) hbuffer text haddress1⟩

end Sys2Proof.Machine
end

section
/-! The initialisation sequencer (spec/43_init_sequencer.md R170 to R190): INIT's trace over every step, the acceptance of
INIT, the commands the block emits executed alone on an idle channel, and INIT's micro-program as what they assemble. -/

namespace Sys2Proof.Machine

/-! ### INIT's trace -/

/-- Settles O47: the trace grows only by a completion, which takes what it appends off the head of the micro-program of
INIT; INIT's DONE finds nothing left to transmit, and a failure leaves nothing but DONE(FATAL). -/
theorem stepKeepsInitTrace : Obligations.StepKeepsInitTrace := by
  unfold Obligations.StepKeepsInitTrace
  intro s t hi htraced h
  exact htraced.step hi h

/-! ### Accepting INIT -/

/-- INIT is accepted on an idle channel of a block that is not initialised (R211). -/
theorem State.idleAt.exec_init {s : State} {k : Channel} (h : s.idleAt s.sel k) (huninit : s.life = .uninit) :
    exec .init s = .next ((accept s k { op := .init, text := [] }).withLife .initializing) := by
  refine (h.onIdle _).trans ?_
  rw [if_pos huninit]

/-- Settles O11: acceptance writes INIT's micro-program, whose head OPEN arms nothing. -/
theorem initAccepted : Obligations.InitAccepted := by
  unfold Obligations.InitAccepted
  intro s k hidle huninit
  exact hidle.exec_init huninit

/-! ### The emitted commands -/

/-- Settles O18: each nibble command assembles its transfer, an `SN`. -/
theorem nibbleCommandsAssemble : Obligations.NibbleCommandsAssemble := by
  unfold Obligations.NibbleCommandsAssemble
  intro s k hidle
  exact ⟨hidle.assemble xferReset8, hidle.assemble xferSet4⟩

/-- Settles O19: each byte command assembles its transfer, an `SB`, and the clear command `CLEAR_CORE`. -/
theorem byteCommandsAssemble : Obligations.ByteCommandsAssemble := by
  unfold Obligations.ByteCommandsAssemble
  intro s k hidle
  exact ⟨hidle.assemble xferFunctionSet, hidle.assemble xferDisplayOn, hidle.assemble xferEntryMode,
    hidle.assemble xferClear⟩

/-- Overwriting a buffer at its start leaves what stands behind the bytes written. -/
theorem writeAt_zero (buf bs : List Byte) : writeAt buf 0 bs = bs ++ buf.drop bs.length := by
  simp [writeAt]

/-- At the start of the buffer the four bytes are followed by what stood behind them (R188, R189). -/
theorem State.idleAt.writeRowbuf_zero {s : State} {k : Channel} (h : s.idleAt s.sel k) (v : Cfg → Byte) (rs : Mode) :
    Machine.writeRowbuf 0 v rs s =
      .next (s.setCh s.sel (k.withRowbuf (byte4 s.cfg (v s.cfg) rs ++ k.rowbuf.drop 4))) := by
  rw [h.writeRowbuf, writeAt_zero, byte4_length]

/-- Settles O20: each row command overwrites four bytes of the buffer, the address commands at its start. -/
theorem rowCommandsFillBuffer : Obligations.RowCommandsFillBuffer := by
  unfold Obligations.RowCommandsFillBuffer
  intro s k d i hidle
  have haddress0 := hidle.writeRowbuf_zero (fun cfg => cfg.rowCmd0) .command
  have haddress1 := hidle.writeRowbuf_zero (fun cfg => cfg.rowCmd1) .command
  have hend : 8 + 4 * i.toNat = 4 + 4 * i.toNat + 4 := by omega
  rw [hend]
  exact ⟨haddress0, haddress1, hidle.exec_hdWriteData d i⟩

/-! ### INIT's micro-program from the commands -/

/-- An idle channel without a micro-program assembles just the transfer (R12; log 5). -/
theorem State.idleAt.assemble_first {s : State} {k : Channel} (h : s.idleAt s.sel k) (hempty : k.prog = [])
    (xfer : Cfg → List MicroOp) :
    Machine.assemble xfer s = .next (s.setCh s.sel { k with prog := xfer s.cfg }) := by
  rw [h.assemble, hempty, List.nil_append]
  rfl

/-- Settles O22: each command leaves its transfer, and acceptance concatenates the transfers with R170's waits. -/
theorem initIsAssembledFromCommands : Obligations.InitIsAssembledFromCommands := by
  unfold Obligations.InitIsAssembledFromCommands
  intro s k hidle huninit hempty
  have assembles := hidle.assemble_first hempty
  obtain ⟨-, -, hk, -⟩ := id hidle
  exact ⟨_, _, _, _, _, _, assembles xferReset8, assembles xferSet4, assembles xferFunctionSet,
    assembles xferDisplayOn, assembles xferEntryMode, assembles xferClear,
    _, _, hidle.exec_init huninit, s.setCh_get_self hk, rfl⟩

end Sys2Proof.Machine
end

section
/-! Clearing the display (spec/44_clear_display.md R200 to R206): CLEAR's micro-program and its acceptance, the clear wait
over every step, and that no CLEAR returns before it is over. -/

namespace Sys2Proof.Machine

open State

/-! ### Accepting CLEAR -/

/-- CLEAR's micro-program in both forms: the clear wait before the release of the one guard hold, or after the second
release (R200 to R202). -/
theorem clearProg_eq (cfg : Cfg) : clearProg cfg =
    if cfg.sendByteAtomic then
      [.acq cfg.bCmd,
       .tx (nib cfg (hi cfg.cmdClear) .command), .wait cfg.tNibble,
       .tx (nib cfg (lo cfg.cmdClear) .command), .wait cfg.tNibble,
       .wait cfg.tClear, .rel, .done .ok]
    else
      [.acq cfg.bCmd, .tx (nib cfg (hi cfg.cmdClear) .command), .wait cfg.tNibble, .rel,
       .acq cfg.bCmd, .tx (nib cfg (lo cfg.cmdClear) .command), .wait cfg.tNibble, .rel,
       .wait cfg.tClear, .done .ok] := by
  unfold clearProg clearCore
  split <;> rfl

/-- In both forms CLEAR begins by acquiring the guard, so acceptance arms that budget (R32, R201). -/
theorem armedDeadline_clearProg (cfg : Cfg) (now old : Nat) :
    armedDeadline now (clearProg cfg) old = now + cfg.bCmd := by
  rw [clearProg_eq]
  split <;> rfl

/-- CLEAR is accepted on an idle channel of a ready block (R211). -/
theorem State.idleAt.exec_clear {s : State} {k : Channel} (h : s.idleAt s.sel k) (hready : s.life = .ready) :
    exec .clear s = .next (accept s k { op := .clear, text := [] }) := by
  refine (h.onIdle _).trans ?_
  rw [if_pos hready]

/-- Settles O12: acceptance writes CLEAR's micro-program and arms its head, the first ACQ. -/
theorem clearAccepted : Obligations.ClearAccepted := by
  unfold Obligations.ClearAccepted
  intro s k hidle hready
  rw [hidle.exec_clear hready, ← clearProg_eq, ← armedDeadline_clearProg s.cfg s.now k.deadline]
  rfl

/-! ### The end of a CLEAR's micro-program -/

/-- Before what is left of a CLEAR after its last wait stands that wait, or more of the same (R200, R201). -/
theorem wait_before_clearEnding {cfg : Cfg} {head : MicroOp} {p : List MicroOp} (hend : clearEnding p)
    (h : head :: p <:+ clearProg cfg ∨ ∃ e, head :: p <:+ failTail cfg (some .clear) e) :
    head = .wait cfg.tClear ∨ (head = .rel ∧ clearEnding (head :: p)) := by
  rw [clearProg_eq] at h
  obtain ⟨r, rfl | rfl⟩ := hend
  · rcases h with h | ⟨e, h⟩
    · split at h
      · have hhead : head = .rel := by simp_all [List.suffix_cons_iff]
        exact .inr ⟨hhead, r, .inr (by rw [hhead])⟩
      · exact .inl (by simp_all [List.suffix_cons_iff])
    · exact .inl (by simp_all [List.suffix_cons_iff, failTail])
  · rcases h with h | ⟨e, h⟩
    · split at h
      · exact .inl (by simp_all [List.suffix_cons_iff])
      · simp [List.suffix_cons_iff] at h
    · simp [List.suffix_cons_iff, failTail] at h

/-- A CLEAR just accepted is not past its last wait. -/
theorem not_clearEnding_clearProg (cfg : Cfg) : ¬ clearEnding (clearProg cfg) := by
  rw [clearProg_eq, clearEnding]
  split <;> simp

/-- A CLEAR that just failed still has to wait (R116, R203). -/
theorem not_clearEnding_failTail (cfg : Cfg) (e : Result) : ¬ clearEnding (failTail cfg (some .clear) e) := by
  simp [clearEnding, failTail]

/-! ### The clear wait of one channel -/

/-- What `ClearTimed` says of channel `c` with record `k`, which runs a CLEAR. -/
structure ClearWait (s : State) (c : Nat) (k : Channel) : Prop where
  waited : clearEnding k.prog → ∀ e ∈ s.wire, e.ch = c → e.t1 + s.cfg.tClear ≤ s.now
  armed : ∀ rest, k.prog = .wait s.cfg.tClear :: rest → clearEnding rest →
    ∀ e ∈ s.wire, e.ch = c → e.t1 + s.cfg.tClear ≤ k.deadline

section
variable {s t v : State} {c : Nat} {k k1 : Channel} {head : MicroOp} {p : List MicroOp}

theorem clearTimed_iff :
    ClearTimed s ↔ ∀ (c : Nat) (k : Channel), s.chs[c]? = some k → k.op = some .clear → ClearWait s c k :=
  ⟨fun h c k hk ho => ⟨h.waited c k hk ho, fun rest => h.armed c k rest hk ho⟩,
    fun h => ⟨fun c k hk ho => (h c k hk ho).waited, fun c k rest hk ho => (h c k hk ho).armed rest⟩⟩

theorem ClearTimed.clearWait (h : ClearTimed s) (hk : s.chs[c]? = some k) (ho : k.op = some .clear) :
    ClearWait s c k := clearTimed_iff.mp h c k hk ho

/-- The time may go on, and other channels' transmissions may complete. -/
theorem ClearWait.frame (h : ClearWait s c k) (hcfg : t.cfg = s.cfg) (hnow : s.now ≤ t.now)
    (hwire : ∀ e ∈ t.wire, e.ch = c → e ∈ s.wire) : ClearWait t c k where
  waited := by
    intro hend e he hch
    rw [hcfg]
    exact (h.waited hend e (hwire e he hch) hch).trans hnow
  armed := by
    rw [hcfg]
    exact fun rest hp hend e he hch => h.armed rest hp hend e (hwire e he hch) hch

/-- A channel armed now, after every event of the trace, has its wait measured from all of them; it only must not be
past the wait already. -/
theorem ClearWait.armedWith (htrace : ∀ e ∈ t.wire, e.t1 ≤ t.now)
    (hend : clearEnding p → ∀ e ∈ t.wire, e.ch = c → e.t1 + t.cfg.tClear ≤ t.now) :
    ClearWait t c (k.armedWith t.now p) where
  waited := hend
  armed := by
    rintro rest hp - e he -
    obtain rfl : p = .wait t.cfg.tClear :: rest := hp
    exact Nat.add_le_add_right (htrace e he) _

/-- A channel that passes the head of its micro-program, a WAIT only once its deadline is reached, and comes to the end
of a CLEAR has waited. -/
theorem ClearWait.pass (h : ClearWait s c k) (hfixed : ProgramsFixed s) (hk : s.chs[c]? = some k)
    (ho : k.op = some .clear) (hp : k.prog = head :: p) (hwait : ∀ d, head = .wait d → k.deadline ≤ s.now)
    (hend : clearEnding p) : ∀ e ∈ s.wire, e.ch = c → e.t1 + s.cfg.tClear ≤ s.now := by
  have hleft := hfixed c k .clear hk ho
  rw [hp] at hleft
  rcases wait_before_clearEnding hend hleft with rfl | ⟨-, hend'⟩
  · exact fun e he hch => (h.armed p hp hend e he hch).trans (hwait _ rfl)
  · exact h.waited (hp ▸ hend')

/-! ### Every agent's move keeps the clear wait -/

/-- Writing one record keeps the clear wait when the record written keeps it and no other channel's transmission
completes. -/
theorem ClearTimed.write (h : ClearTimed s) (hk : s.chs[c]? = some k) (hchs : t.chs = s.chs.set c k1)
    (hcfg : t.cfg = s.cfg) (hnow : t.now = s.now) (hwire : ∀ e ∈ t.wire, e.ch ≠ c → e ∈ s.wire)
    (hown : k1.op = some .clear → ClearWait t c k1) : ClearTimed t := by
  refine clearTimed_iff.mpr fun c' k' hk' ho' => ?_
  rcases get_cases_of_set hk hchs hk' with ⟨rfl, rfl⟩ | ⟨hne, hold⟩
  · exact hown ho'
  · exact (h.clearWait hold ho').frame hcfg hnow.ge fun e he hch => hwire e he (hch ▸ hne)

/-- A channel goes on past a micro-operation that transmits nothing. -/
theorem ClearTimed.pop (h : ClearTimed s) (hfixed : ProgramsFixed s) (hordered : TraceOrdered s)
    (hk : s.chs[c]? = some k) (hp : k.prog = head :: p) (hwait : ∀ d, head = .wait d → k.deadline ≤ s.now)
    (hchs : v.chs = s.chs) (hcfg : v.cfg = s.cfg) (hnow : v.now = s.now) (hwire : v.wire = s.wire) :
    ClearTimed (v.pop c) := by
  have hset : (v.pop c).chs = s.chs.set c (k.armedWith (v.pop c).now p) := by
    rw [pop_chs (hchs ▸ hk), hchs, hp, List.tail_cons, pop_now]
  refine h.write hk hset (by simpa using hcfg) (by simpa using hnow) ?_ fun ho => ?_
  · exact fun e he _ => by simpa [hwire] using he
  refine .armedWith ?_ ?_
  · rw [pop_wire, pop_now, hwire, hnow]
    exact fun e he => (hordered.each e he).2
  · rw [pop_wire, pop_now, pop_cfg, hwire, hnow, hcfg]
    exact (h.clearWait hk ho).pass hfixed hk ho hp hwait

/-- A channel that fails starts the clear wait over (R116, R203). -/
theorem ClearTimed.fail (h : ClearTimed s) (hk : s.chs[c]? = some k) (hchs : v.chs = s.chs) (hcfg : v.cfg = s.cfg)
    (hnow : v.now = s.now) (hwire : ∀ e ∈ v.wire, e.ch ≠ c → e ∈ s.wire) (htrace : ∀ e ∈ v.wire, e.t1 ≤ v.now)
    (r : Result) : ClearTimed (v.fail c r) := by
  have hset : (v.fail c r).chs = s.chs.set c (k.armedWith (v.fail c r).now (failTail s.cfg k.op r)) := by
    rw [fail_chs (hchs ▸ hk), hchs, hcfg, fail_now]
  refine h.write hk hset (by simpa using hcfg) (by simpa using hnow) (by simpa using hwire) fun ho => ?_
  have hop : k.op = some .clear := ho
  refine .armedWith (by simpa using htrace) fun hend => ?_
  rw [hop] at hend
  exact absurd hend (not_clearEnding_failTail _ _)

theorem ClearTimed.instrEffect (h : ClearTimed s) (hordered : TraceOrdered s) (he : InstrEffect s t) :
    ClearTimed t := by
  have write {k k1 : Channel} (hk : s.chs[s.sel]? = some k) (ho : k1.op = some .clear → ClearWait s s.sel k1) :
      ClearTimed (s.setCh s.sel k1) :=
    h.write hk rfl rfl rfl (fun e he _ => he) fun ho' => (ho ho').frame rfl le_rfl fun e he _ => he
  cases he with
  | nothing => exact h
  | fault r => exact { h with }
  | init k hk ho hl => exact { write hk (by simp) with }
  | clear k hk ho hl =>
    refine write hk fun _ => .armedWith (fun e he => (hordered.each e he).2) fun hend => ?_
    exact absurd hend (not_clearEnding_clearProg s.cfg)
  | row k row text hk ho hl => exact write hk (by simp)
  | assembled k p hk ho => exact write hk (by simp [ho])
  | buffer k pos v rs hk ho hp => exact write hk (by simp [ho])

theorem ClearTimed.channelEffect (h : ClearTimed s) (hfixed : ProgramsFixed s) (hordered : TraceOrdered s)
    (hk : s.chs[c]? = some k) (he : ChannelEffect c s k t) : ClearTimed t := by
  have htrace : ∀ e ∈ s.wire, e.t1 ≤ s.now := fun e he => (hordered.each e he).2
  cases he with
  | openTaken p hp => exact h.pop (v := s.withSession .opened) hfixed hordered hk hp (by simp) rfl rfl rfl rfl
  | openFailed p hp => exact h.fail hk rfl rfl rfl (fun e he _ => he) htrace _
  | granted b p hp hg => exact h.pop (v := s.withGuard (some c)) hfixed hordered hk hp (by simp) rfl rfl rfl rfl
  | gaveUp b p hp hg hd => exact h.fail hk rfl rfl rfl (fun e he _ => he) htrace _
  | issued bytes hp ht hg hb hs =>
    refine h.write (k1 := { k with txpend := true }) hk rfl rfl rfl (fun e he _ => he) fun ho => ?_
    exact { h.clearWait hk ho with }
  | waited d p hp hd => exact h.pop hfixed hordered hk hp (fun _ _ => hd) rfl rfl rfl rfl
  | released p hp => exact h.pop (v := s.withGuard none) hfixed hordered hk hp (by simp) rfl rfl rfl rfl
  | finished r p hp =>
    exact h.write (k1 := { k with result := some r, op := none, prog := [] }) hk rfl rfl rfl (fun e he _ => he)
      (by simp)

/-- What stands behind a head transmission is not the end of a CLEAR. -/
theorem not_clearEnding_after_transmission {bytes : List Byte} (hfixed : ProgramsFixed s) (hk : s.chs[c]? = some k)
    (ho : k.op = some .clear) (hhead : headBytes k = some bytes) : ¬ clearEnding k.prog.tail := by
  intro hend
  have hleft := hfixed c k .clear hk ho
  rcases headBytes_cases hhead with ⟨p, hp⟩ | ⟨⟨p, hp⟩, -⟩
  all_goals
    rw [hp] at hleft hend
    simpa using wait_before_clearEnding hend hleft

/-- An event of the trace after a completion was there, or is the completed channel's and ends now (R110). -/
theorem completed_wire_cases {bytes : List Byte} {t0 drawn : Nat} {o : TxOutcome} {e : WireEvent}
    (h : e ∈ (completed s c bytes t0 o drawn).wire) : e ∈ s.wire ∨ (e.ch = c ∧ e.t1 = s.now) := by
  rcases List.mem_append.mp h with hold | hnew
  · exact .inl hold
  · obtain rfl := List.mem_singleton.mp hnew
    exact .inr ⟨rfl, rfl⟩

theorem ClearTimed.busEffect {bytes : List Byte} {t0 : Nat} (h : ClearTimed s) (hi : Inv s) (hfixed : ProgramsFixed s)
    (hordered : TraceOrdered s) (hb : s.bus = .busy c bytes t0) (o : TxOutcome) (drawn : Nat) :
    ClearTimed (afterTx (completed s c bytes t0 o drawn) c o) := by
  obtain ⟨k, op, hk, hop, -, hhead⟩ := hi.transmitting hb
  have hwire : ∀ e ∈ (completed s c bytes t0 o drawn).wire, e.ch ≠ c → e ∈ s.wire := fun e he hne =>
    (completed_wire_cases he).resolve_right fun ⟨hch, _⟩ => hne hch
  have htrace : ∀ e ∈ (completed s c bytes t0 o drawn).wire, e.t1 ≤ s.now := fun e he =>
    (completed_wire_cases he).elim (fun hold => (hordered.each e hold).2) fun ⟨_, hend⟩ => hend.le
  cases o with
  | ok =>
    have hset : ((completed s c bytes t0 .ok drawn).pop c).chs =
        s.chs.set c (k.armedWith ((completed s c bytes t0 .ok drawn).pop c).now k.prog.tail) := by
      rw [pop_now]
      exact pop_chs hk
    refine h.write (t := (completed s c bytes t0 .ok drawn).pop c) hk hset (pop_cfg ..) (pop_now ..)
      (by simpa using hwire) fun ho => ?_
    refine .armedWith (by simpa using htrace) fun hend => ?_
    exact absurd hend (not_clearEnding_after_transmission hfixed hk ho hhead)
  | buserror => exact h.fail (v := completed s c bytes t0 .buserror drawn) hk rfl rfl rfl hwire htrace _
  | timedout => exact h.fail (v := completed s c bytes t0 .timedout drawn) hk rfl rfl rfl hwire htrace _

theorem ClearTimed.machineEffect (h : ClearTimed s) (hi : Inv s) (hfixed : ProgramsFixed s)
    (hordered : TraceOrdered s) (he : MachineEffect s t) : ClearTimed t := by
  cases he with
  | instr he => exact h.instrEffect hordered he
  | channel c k hk _ he => exact h.channelEffect hfixed hordered hk he
  | bus c bytes t0 o drawn hb _ => exact h.busEffect hi hfixed hordered hb o drawn
  | time d _ =>
    exact clearTimed_iff.mpr fun c k hk ho =>
      (h.clearWait hk ho).frame rfl (Nat.le_add_right ..) fun e he _ => he

theorem ClearTimed.of_sameMachine (h : ClearTimed s) (hsame : SameMachine s t) : ClearTimed t := by
  obtain ⟨agenda, draws, slot, sel, via, rfl⟩ := hsame.exists_eq
  exact { h with }

theorem ProgramsFixed.of_sameMachine (h : ProgramsFixed s) (hsame : SameMachine s t) : ProgramsFixed t := by
  obtain ⟨agenda, draws, slot, sel, via, rfl⟩ := hsame.exists_eq
  exact h

theorem ClearTimed.step (h : ClearTimed s) (hi : Inv s) (hfixed : ProgramsFixed s) (hordered : TraceOrdered s)
    (hs : Machine.step s = .next t) : ClearTimed t := by
  obtain ⟨-, -, u, hsame, heffect⟩ := step_cases hs
  exact (h.of_sameMachine hsame).machineEffect (hi.of_sameMachine hsame) (hfixed.of_sameMachine hsame)
    (hordered.of_sameMachine hsame) heffect

end

/-- Settles O48: a CLEAR comes to the end of its micro-program only past its clear wait, and that wait is armed, by a pop
or by a failure, after every transmission the channel completed. -/
theorem stepKeepsClearTime : Obligations.StepKeepsClearTime := by
  unfold Obligations.StepKeepsClearTime
  intro s t hi hfixed hordered hclear h
  exact hclear.step hi hfixed hordered h

/-! ### Returning -/

/-- A move returns no result, or is the DONE of a busy channel and returns that channel's (R38, R115). -/
theorem effect_answers {s t : State} (h : MachineEffect s t) : t.answers = s.answers ∨
    ∃ (c : Nat) (k : Channel) (r : Result) (p : List MicroOp), s.chs[c]? = some k ∧ k.prog = .done r :: p ∧
      t.answers = s.answers ++ [⟨c, k.request, r⟩] ∧ t.wire = s.wire ∧ t.now = s.now := by
  cases h with
  | instr h => cases h <;> exact .inl rfl
  | channel c k hk ho h =>
    cases h with
    | finished r p hp => exact .inr ⟨c, k, r, p, hk, hp, rfl, rfl, rfl⟩
    | issued => exact .inl rfl
    | _ => exact .inl (by simp)
  | bus c bytes t0 o drawn hb ha => cases o <;> exact .inl (by simp [afterTx, completed])
  | time d hd => exact .inl rfl

/-- The request of a channel names its operation. -/
theorem request_op {k : Channel} {r : Request} (h : k.request = some r) : k.op = some r.op := by
  obtain ⟨op, hop, rfl⟩ := Option.map_eq_some_iff.mp h
  exact hop

/-- Settles O49: a result of a CLEAR is returned by its DONE, the last of its micro-program, which stands past the clear
wait. That the program was fixed at acceptance is not needed. -/
theorem clearNeverReturnsEarly : Obligations.ClearNeverReturnsEarly := by
  unfold Obligations.ClearNeverReturnsEarly
  intro s t c text r hi _ hclear h hreturns
  obtain ⟨_, _, _, _, _, _, heffect⟩ := step_effect h
  rcases effect_answers heffect with hnone | ⟨c', k, r', p, hk, hp, hanswers, hwire, hnow⟩
  · simp [hreturns] at hnone
  · obtain ⟨rfl, hrequest, rfl⟩ : c' = c ∧ k.request = some ⟨.clear, text⟩ ∧ r' = r := by
      simpa [hreturns, eq_comm] using hanswers
    have ho : k.op = some .clear := request_op hrequest
    obtain ⟨-, rfl, -⟩ := (hi.channelInv hk).at_done ho hp
    rw [hwire, hnow]
    exact (hclear.clearWait hk ho).waited ⟨r', .inl hp⟩

end Sys2Proof.Machine
end

section
/-! Exceptions (spec/60_exceptions.md): an agent's move writes at most its own channel's record (R216, R226); what an
instruction does where the port refuses it (R211 to R213), and on a busy or a missing channel (R210). -/

namespace Sys2Proof.Machine

open State

/-! ### One channel's record at a time -/

section
variable {s t : State}

/-- An instruction leaves the records of the channels it is not presented on (R226). -/
theorem InstrEffect.get_ne {c' : Nat} (h : InstrEffect s t) (hne : s.sel ≠ c') : t.chs[c']? = s.chs[c']? := by
  cases h with
  | nothing => rfl
  | fault => rfl
  | init => exact s.setCh_get_ne _ hne
  | clear => exact s.setCh_get_ne _ hne
  | row => exact s.setCh_get_ne _ hne
  | assembled => exact s.setCh_get_ne _ hne
  | buffer => exact s.setCh_get_ne _ hne

/-- A move leaves all records but one channel's: the one an instruction is presented on, the one that steps, or the one
whose transmission completes (R216). -/
theorem MachineEffect.records_kept (h : MachineEffect s t) :
    ∃ c : Nat, ∀ c' : Nat, c' ≠ c → t.chs[c']? = s.chs[c']? := by
  cases h with
  | instr h => exact ⟨s.sel, fun _ hne => h.get_ne hne.symm⟩
  | channel c k hk ho h => exact ⟨c, fun _ hne => h.get_ne hne.symm⟩
  | bus c bytes t0 o drawn hb ha => exact ⟨c, fun _ hne => afterTx_get_ne o hne.symm⟩
  | time d hd => exact ⟨0, fun _ _ => rfl⟩

end

/-- Settles O59: taking the move writes no record, and the agent that makes it writes only its own channel's. -/
theorem oneChannelAtATime : Obligations.OneChannelAtATime := by
  unfold Obligations.OneChannelAtATime
  intro s t h
  obtain ⟨_, _, _, _, _, -, heffect⟩ := step_effect h
  exact heffect.records_kept

/-! ### Requests that are refused -/

section
variable {s : State} {k : Channel}

/-- The first fault raised is the one recorded, and nothing else changes (R214). -/
theorem raiseFault_eq_of_none (hfault : s.fault = none) (r : FaultReason) :
    s.raiseFault r = { s with fault := some r } := by
  simp [raiseFault, hfault]

theorem exec_sendNibble_port (hvia : s.via = .port) (n : Byte) (rs : Mode) :
    exec (.sendNibble n rs) s = refuseRequest .badRequest s := by
  simp [exec, execSendNibble, hvia]

theorem exec_sendByte_port (hvia : s.via = .port) (v : Byte) (rs : Mode) :
    exec (.sendByte v rs) s = refuseRequest .badRequest s := by
  simp [exec, execSendByte, hvia]

/-- On an idle channel an instruction whose body raises a fault does nothing else (R212, R214). -/
theorem State.idleAt.onIdle_raises {body : Channel → State} {r : FaultReason} (h : s.idleAt s.sel k)
    (hbody : body k = s.raiseFault r) : Machine.onIdle s body = .next { s with fault := some r } := by
  obtain ⟨hfault, -, -, -⟩ := id h
  rw [h.onIdle, hbody, raiseFault_eq_of_none hfault]

/-- A second INIT is refused (R211, R213). -/
theorem State.idleAt.exec_init_refused (h : s.idleAt s.sel k) (hinit : s.life ≠ .uninit) :
    exec .init s = .next { s with fault := some .initTwice } :=
  h.onIdle_raises (if_neg hinit)

/-- A CLEAR of a block that is not ready is refused (R211, R213). -/
theorem State.idleAt.exec_clear_refused (h : s.idleAt s.sel k) (hready : s.life ≠ .ready) :
    exec .clear s = .next { s with fault := some .notReady } :=
  h.onIdle_raises (if_neg hready)

/-- A WRITE_ROW of a display row to a block that is not ready is refused (R211, R213). -/
theorem State.idleAt.exec_writeRow_refused {row : BitVec 2} (h : s.idleAt s.sel k) (hrow : rowInRange row = true)
    (hready : s.life ≠ .ready) (t : List Byte) :
    exec (.writeRow row t) s = .next { s with fault := some .notReady } :=
  h.onIdle_raises ((if_pos hrow).trans (if_neg hready))

/-- A WRITE_ROW of no display row is refused whatever the lifecycle (R77, R211). -/
theorem State.idleAt.exec_writeRow_badRow {row : BitVec 2} (h : s.idleAt s.sel k) (hrow : ¬ rowInRange row = true)
    (t : List Byte) : exec (.writeRow row t) s = .next { s with fault := some .badRow } :=
  h.onIdle_raises (if_neg hrow)

end

/-- Settles O14: each clause is one refusing branch of an instruction's body, the row checked before the lifecycle. -/
theorem forbiddenRequestsFault : Obligations.ForbiddenRequestsFault := by
  unfold Obligations.ForbiddenRequestsFault
  intro s k hidle
  refine ⟨hidle.exec_init_refused, hidle.exec_clear_refused, fun row t hrow hready => ?_, fun row t hrow => ?_,
    fun b rs hvia => ⟨?_, ?_⟩⟩
  · exact hidle.exec_writeRow_refused (rowInRange_iff.mpr hrow) hready t
  · exact hidle.exec_writeRow_badRow (mt of_decide_eq_true (Nat.not_lt.mpr hrow)) t
  · exact (exec_sendNibble_port hvia b rs).trans (hidle.onIdle_raises rfl)
  · exact (exec_sendByte_port hvia b rs).trans (hidle.onIdle_raises rfl)

/-! ### Busy and missing channels -/

/-- Every instruction goes through `onIdle`: where that does nothing, none does anything. -/
theorem exec_of_onIdle_passes {s : State} (i : Instr) (h : ∀ body, onIdle s body = .next s) : exec i s = .next s := by
  cases i with
  | sendNibble n rs =>
    simp only [exec, execSendNibble]
    split <;> exact h _
  | sendByte v rs =>
    simp only [exec, execSendByte]
    split <;> exact h _
  | _ => exact h _

/-- Settles O15: `onIdle`, through which every instruction goes, passes over a busy or a missing channel. -/
theorem busyChannelsAreLeftAlone : Obligations.BusyChannelsAreLeftAlone := by
  unfold Obligations.BusyChannelsAreLeftAlone
  intro s i hfault hlife hchannel
  have hlive : s.halted? = none := halted?_eq_none.mpr ⟨hfault, hlife⟩
  refine exec_of_onIdle_passes i fun body => ?_
  rcases hchannel with hmissing | ⟨k, hk, hbusy⟩
  · exact onIdle_missing body hlive hmissing
  · exact onIdle_busy body hlive hk hbusy

end Sys2Proof.Machine
end

section
/-! Reset (spec/70_reset_and_hazards.md R240): what the steps keep holds of every reset state, where no channel is busy
and the trace is empty. `RunInv.resetOf` says so of what every reachable state meets; here are the two properties of
micro-programs (O40). -/

namespace Sys2Proof.Machine

theorem ProgramsFixed.resetOf (cfg : Cfg) : ProgramsFixed (State.resetOf cfg) :=
  fun _ _ _ hk ho => absurd ho (resetOf_idle hk)

theorem ClearTimed.resetOf (cfg : Cfg) : ClearTimed (State.resetOf cfg) :=
  clearTimed_iff.mpr fun _ _ hk ho => absurd ho (resetOf_idle hk)

/-- Settles O40: no channel is busy after reset, so nothing is asked of its micro-program, and the trace is empty. -/
theorem invariantAtReset : Obligations.InvariantAtReset := by
  unfold Obligations.InvariantAtReset
  intro cfg _
  obtain ⟨hinv, hordered, hshaped, hsettled, hinit⟩ := RunInv.resetOf cfg
  exact ⟨hinv, .resetOf cfg, hordered, hshaped, hsettled, hinit, .resetOf cfg⟩

end Sys2Proof.Machine
end
